-- ==== Sys2Proof/Word.lean ====
section
/-! DEFINITION. The word types of the engine: bytes, 16-bit halves and 32-bit words (00_scope.md R9, R10). -/

namespace Sys2Proof

/-- A byte of a memory or of a built header (R10: a natural 0..255). -/
abbrev Byte := BitVec 8

/-- A 16-bit header field or checksum (R71). -/
abbrev Half := BitVec 16

/-- A 32-bit register, command word or bus data word (R22, R73, R90). -/
abbrev Word := BitVec 32

end Sys2Proof
end

