-- ==== Sys2Proof/Syntax.lean ====
section
/-! DEFINITION. The commands of the engine (30_encoding.md R91), and the raw fields of a command word (R90).
One constructor of `Instr` stands for one row of spec/opcode_table.json. -/

namespace Sys2Proof

/-- The byte memory ACC_ADD and CSUM read: the legal values 0..4 of the SRC field (R93). -/
inductive Src where
  | pmem | fmem | iph | tcph | psh
  deriving DecidableEq, Repr

/-- A command (R91). A value of this type is a legal command: SRC stands only where the opcode uses it and only at
0..4, and T stands only at BUILD_IP, so the type has no ill-formed value. The words that are no command are told
apart at `CommandFields`. -/
inductive Instr where
  /-- NOP (R110). -/
  | nop
  /-- ACC_CLEAR (R111). -/
  | accClear
  /-- ACC_ADD with its source memory (R112). -/
  | accAdd (src : Src)
  /-- ACC_FINAL (R113). -/
  | accFinal
  /-- CSUM with its source memory (R114). -/
  | csum (src : Src)
  /-- BUILD_IP with its transport flag T (R133). -/
  | buildIp (t : Bool)
  /-- BUILD_PSEUDO (R152). -/
  | buildPseudo
  /-- BUILD_TCP (R157). -/
  | buildTcp
  /-- ASM_IP (R181). -/
  | asmIp
  /-- ASM_TCP (R182). -/
  | asmTcp
  deriving DecidableEq, Repr

/-- The fields of a command word as R90 lays them out: OP[7:0], SRC[11:8], T[12], RSVD[31:13]. -/
structure CommandFields where
  op : BitVec 8
  src : BitVec 4
  t : Bool
  rsvd : BitVec 19
  deriving DecidableEq, Repr

/-- Why a word is no command (R92, R95). Every reason is reported to the host as the one code ILLEGAL. -/
inductive Reject where
  /-- RSVD is not 0. -/
  | reservedBits
  /-- OP is not in the opcode map of R91. -/
  | reservedOpcode
  /-- SRC is not 0 on an opcode that does not use it. -/
  | sourceNotUsed
  /-- SRC is 5..15 on ACC_ADD or CSUM. -/
  | reservedSource
  /-- T is 1 on an opcode other than BUILD_IP. -/
  | transportNotUsed
  deriving DecidableEq, Repr

end Sys2Proof
end

