-- ==== Sys2Proof/WellFormed.lean ====
section
/-! DEFINITION. When the fields of a command word are a legal command: the predicate `legal` of 30_encoding.md R92,
written as R92 writes it and independently of the decoder in Decode.lean. -/

namespace Sys2Proof

/-- The opcodes of R91, as R92 lists them. -/
def legalOpcodes : List (BitVec 8) :=
  [0x00, 0x01, 0x02, 0x03, 0x04, 0x10, 0x11, 0x12, 0x20, 0x21]

/-- R92's `legal`: RSVD is 0, OP is listed, SRC is 0 or a legal selector on an opcode that uses it, and T is 0 or the
opcode is BUILD_IP. -/
def CommandFields.wellFormed (f : CommandFields) : Bool :=
  f.rsvd == 0
    && legalOpcodes.contains f.op
    && (f.src == 0 || (([0x02, 0x04] : List (BitVec 8)).contains f.op && decide (f.src.toNat ≤ 4)))
    && (!f.t || f.op == 0x10)

end Sys2Proof
end

