-- ==== Sys2Proof/Decode.lean ====
section
/-! DEFINITION. Decoding a command word (30_encoding.md R90 to R95) and, after it, encoding a command. Decoding is
total: a word is one row of R91 or is rejected by name. -/

namespace Sys2Proof

/-- The fields of a command word (R90, R92). -/
def fieldsOf (w : Word) : CommandFields :=
  { op := w.extractLsb' 0 8
    src := w.extractLsb' 8 4
    t := w.getLsbD 12
    rsvd := w.extractLsb' 13 19 }

/-- The memory a SRC value selects; none for the reserved values 5..15 (R93). -/
def srcOfCode (c : BitVec 4) : Option Src :=
  match c.toNat with
  | 0 => some .pmem
  | 1 => some .fmem
  | 2 => some .iph
  | 3 => some .tcph
  | 4 => some .psh
  | _ => none

/-- An opcode that uses neither SRC nor T (R91: SRC 0, T 0). -/
def decodePlain (f : CommandFields) (i : Instr) : Except Reject Instr :=
  if f.src ≠ 0 then .error .sourceNotUsed
  else if f.t then .error .transportNotUsed
  else .ok i

/-- An opcode that uses SRC (ACC_ADD and CSUM; R91: SRC 0-4, T 0). -/
def decodeSourced (f : CommandFields) (mk : Src → Instr) : Except Reject Instr :=
  if f.t then .error .transportNotUsed
  else match srcOfCode f.src with
    | some src => .ok (mk src)
    | none => .error .reservedSource

/-- BUILD_IP, the one opcode that uses T (R91: SRC 0, T 0-1). -/
def decodeTransport (f : CommandFields) : Except Reject Instr :=
  if f.src ≠ 0 then .error .sourceNotUsed else .ok (.buildIp f.t)

/-- The command the fields stand for, by the opcode map (R91). -/
def decodeFields (f : CommandFields) : Except Reject Instr :=
  if f.rsvd ≠ 0 then .error .reservedBits
  else match f.op.toNat with
    | 0x00 => decodePlain f .nop
    | 0x01 => decodePlain f .accClear
    | 0x02 => decodeSourced f .accAdd
    | 0x03 => decodePlain f .accFinal
    | 0x04 => decodeSourced f .csum
    | 0x10 => decodeTransport f
    | 0x11 => decodePlain f .buildPseudo
    | 0x12 => decodePlain f .buildTcp
    | 0x20 => decodePlain f .asmIp
    | 0x21 => decodePlain f .asmTcp
    | _ => .error .reservedOpcode

/-- Decoding a command word (R92). An `.error` is the ILLEGAL of R92; its value says which check failed. -/
def decode (w : Word) : Except Reject Instr := decodeFields (fieldsOf w)

/-- What the decoder reads from the table's numbering of an instruction's bits: a command is one 32-bit word whose
bit 0 is the table's bit 0 (R90), so the word is `w` with every bit at or above `nbits` zero. -/
def decodeTableWord (nbits w : Nat) : Option Instr :=
  let v := w % 2 ^ nbits
  if v < 2 ^ 32 then
    match decode (BitVec.ofNat 32 v) with
    | .ok i => some i
    | .error _ => none
  else none

/-- The SRC value that selects a memory (R93). -/
def Src.code : Src → BitVec 4
  | .pmem => 0
  | .fmem => 1
  | .iph => 2
  | .tcph => 3
  | .psh => 4

/-- The fields of a command (R91). -/
def Instr.fields : Instr → CommandFields
  | .nop => { op := 0x00, src := 0, t := false, rsvd := 0 }
  | .accClear => { op := 0x01, src := 0, t := false, rsvd := 0 }
  | .accAdd src => { op := 0x02, src := src.code, t := false, rsvd := 0 }
  | .accFinal => { op := 0x03, src := 0, t := false, rsvd := 0 }
  | .csum src => { op := 0x04, src := src.code, t := false, rsvd := 0 }
  | .buildIp t => { op := 0x10, src := 0, t := t, rsvd := 0 }
  | .buildPseudo => { op := 0x11, src := 0, t := false, rsvd := 0 }
  | .buildTcp => { op := 0x12, src := 0, t := false, rsvd := 0 }
  | .asmIp => { op := 0x20, src := 0, t := false, rsvd := 0 }
  | .asmTcp => { op := 0x21, src := 0, t := false, rsvd := 0 }

/-- The word that carries the fields (R90). -/
def CommandFields.toWord (f : CommandFields) : Word :=
  f.rsvd ++ BitVec.ofBool f.t ++ f.src ++ f.op

/-- The command word of a command (R91). -/
def encode (i : Instr) : Word := i.fields.toWord

/-- One row of the opcode map as the table gives it: a word matches the row when `word &&& mask = pattern`, and, where
`hasSource`, its SRC field is at most 4 (the table's constraint on ACC_ADD and CSUM). -/
structure OpcodeRow where
  pattern : Word
  mask : Word
  hasSource : Bool
  deriving DecidableEq, Repr

/-- The rows of R91, from the table's match and mask columns, in the table's order. -/
def opcodeRows : List OpcodeRow :=
  [ ⟨0x00000000, 0xFFFFFFFF, false⟩, ⟨0x00000001, 0xFFFFFFFF, false⟩, ⟨0x00000002, 0xFFFFF0FF, true⟩,
    ⟨0x00000003, 0xFFFFFFFF, false⟩, ⟨0x00000004, 0xFFFFF0FF, true⟩, ⟨0x00000010, 0xFFFFEFFF, false⟩,
    ⟨0x00000011, 0xFFFFFFFF, false⟩, ⟨0x00000012, 0xFFFFFFFF, false⟩, ⟨0x00000020, 0xFFFFFFFF, false⟩,
    ⟨0x00000021, 0xFFFFFFFF, false⟩ ]

/-- A word matches a row of the table. -/
def OpcodeRow.matchesWord (r : OpcodeRow) (w : Word) : Bool :=
  (w &&& r.mask) == r.pattern && (!r.hasSource || decide ((w.extractLsb' 8 4).toNat ≤ 4))

end Sys2Proof
end

