-- ==== Sys2Proof/Config.lean ====
section
/-! DEFINITION. What an implementation fixes (00_scope.md R7) and the free values the spec leaves open. A free value is
a constant with no body, applied to the draw counter `State.draws`, which every draw advances: no proof can see what it
is, and two draws never share an argument. -/

namespace Sys2Proof

/-- PMEM_SIZE, the payload memory's size in bytes (R7, R37, D24). -/
def Config.pmemSize : Nat := 65536

/-- FMEM_SIZE, exactly PMEM_SIZE + 40 (R7, R38, D24). -/
def Config.fmemSize : Nat := Config.pmemSize + 40

/-- IP_HDR_LEN (R7). -/
def Config.ipHdrLen : Nat := 20

/-- TCP_HDR_LEN (R7). -/
def Config.tcpHdrLen : Nat := 20

/-- PSEUDO_LEN (R7). -/
def Config.pseudoLen : Nat := 12

/-- A byte read from PMEM or FMEM that nothing has written since reset (R39, D43, U1): a draw. Log entry 2. -/
opaque Config.freeByte : Nat → Byte

/-- A host read of engine-written state while BUSY = 1 (R81, D10, U2): a draw. Log entry 4. -/
opaque Config.freeWord : Nat → Word

/-- LATENCY (R7, R241, D11, U3): how many host accesses can happen between an accepted CMD write and the command's
completion; a draw for every command. Log entry 5. -/
opaque Config.latency : Nat → Nat

/-- Which 2^18-aligned block of the platform's address space the engine stands at (R7, D50, U4): left to the platform. -/
opaque Config.baseIndex : Nat

/-- BASE, the bus address of the block: aligned to 2^18 (R7). -/
def Config.base : Nat := Config.baseIndex * 2 ^ 18

end Sys2Proof
end

