-- ==== Sys2Proof/Machine/State.lean ====
section
/-! DEFINITION. The machine's state as plain data (10_state.md), the reasons a step can stop, and the state after reset
(10_state.md R40, 70_reset_and_hazards.md R230). -/

namespace Sys2Proof.Machine

/-- A byte memory (PMEM or FMEM): the bytes written since reset, by rising address. An address not listed has not been
written since reset and has no value: reading it is a draw (R39, D43). -/
abbrev Memory := List Host.Cell

/-- The canonical form of a memory of `size` bytes: addresses strictly rising and inside the memory. (An unlisted
address reads as a draw, which no entry can equal for every draw, so no entry is ever left out.) -/
abbrev Memory.wf (size : Nat) (m : Memory) : Prop :=
  m.Pairwise (fun a b => a.1 < b.1) ∧ ∀ c ∈ m, c.1 < size

/-- The size of a host access: 1, 2 or 4 bytes (R73). -/
inductive AccessSize where
  | byte | half | word
  deriving DecidableEq, Repr

/-- One access of the host bus: an 18-bit byte offset from BASE and, for a write, 32 data bits (R73). -/
inductive Access where
  | read (size : AccessSize) (offset : BitVec 18)
  | write (size : AccessSize) (offset : BitVec 18) (data : Word)
  deriving DecidableEq, Repr

/-- What the outside world can do to the engine, one event at a time (R20, R80, R97, R230). -/
inductive HostEvent where
  /-- One bus access. -/
  | access (a : Access)
  /-- The pseudo-instruction `poll`: read STATUS, again and again, until BUSY reads 0 (R97). -/
  | poll
  /-- The reset input is asserted (R230). -/
  | assertReset
  /-- The reset input is released (R230). -/
  | releaseReset
  deriving DecidableEq, Repr

/-- The two policy flags of CTRL (R23). -/
structure Ctrl where
  ipLenMode : Bool
  ipCsumMode : Bool
  deriving DecidableEq, Repr

/-- The fields of STATUS (R24). -/
structure Status where
  busy : Bool
  done : Bool
  err : Bool
  busErr : Bool
  wrBusy : Bool
  errCode : BitVec 4
  deriving DecidableEq, Repr

/-- The IPv4 field registers, each at its declared width (R26). -/
structure IpRegs where
  tos : Byte
  totLen : Half
  id : Half
  frag : Half
  ttl : Byte
  proto : Byte
  csum : Half
  src : Word
  dst : Word
  deriving DecidableEq, Repr

/-- The TCP field registers, each at its declared width (R29). -/
structure TcpRegs where
  sport : Half
  dport : Half
  seq : Word
  ack : Word
  rsv : BitVec 4
  flags : Byte
  win : Half
  urg : Half
  deriving DecidableEq, Repr

/-- The checksum accumulator: CS_ACC and the two fields of CS_PEND (R34). -/
structure Accum where
  acc : Word
  pendV : Bool
  pendB : Byte
  deriving DecidableEq, Repr

/-- Why a step ends in a fault. The spec gives the engine no fault: a failed command, a bus error and a dropped write
are recorded in STATUS and the machine goes on (R203, R204, R208). So there is no reason, and no step ever faults. -/
inductive Fault where
  deriving DecidableEq, Repr

/-- Why a step is refused. -/
inductive Refusal where
  /-- Raised by an arm of `exec` for an instruction that has no meaning yet. Safe. No arm raises it: every instruction
  has its meaning. -/
  | notModelled (mnemonic : String)
  /-- Raised by `step` in a state whose STATUS.ERRCODE is 4..15, which nothing ever produces: "a model that sees one
  must `refuse` the state" (R200; 93_implementation_defined.md U6). Safe. -/
  | reservedErrorCode
  deriving DecidableEq, Repr

/-- The state of the engine and of what the outside world will do to it. The fields up to `resetAsserted` are the
spec's; the last four are the model's own (INVENTORY.md). -/
structure State where
  /-- CTRL (R23). -/
  ctrl : Ctrl
  /-- STATUS (R24). -/
  status : Status
  /-- LCMD, the last command word accepted since reset; what a read of CMD returns (R25). -/
  lcmd : Word
  /-- IP_TOS to IP_DST (R26). -/
  ip : IpRegs
  /-- TCP_SPORT to TCP_URG (R29). -/
  tcp : TcpRegs
  /-- PLEN (R31). -/
  plen : Word
  /-- CS_OFF (R31). -/
  csOff : Word
  /-- CS_LEN (R31). -/
  csLen : Word
  /-- CS_ACC and CS_PEND (R34). -/
  cs : Accum
  /-- CS_RESULT (R34). -/
  csResult : Half
  /-- IPH, the built IPv4 header (R35). -/
  iph : Vector Byte 20
  /-- TCPH, the built TCP header (R35). -/
  tcph : Vector Byte 20
  /-- PSH, the built pseudo-header (R35). -/
  psh : Vector Byte 12
  /-- FLEN (R36). -/
  flen : Word
  /-- PMEM, the payload memory (R37). -/
  pmem : Memory
  /-- FMEM, the frame memory (R38). -/
  fmem : Memory
  /-- The level of the reset input: true while reset is asserted (R230). -/
  resetAsserted : Bool
  /-- The host's events still to come, in the host's issue order (R80). The model's own field. -/
  host : List HostEvent
  /-- While BUSY = 1: how many more host accesses can happen before the running command's step (R7, R241). The model's
  own field. -/
  latency : Nat
  /-- The draw counter the free values of Config are applied to. The model's own field. -/
  draws : Nat
  /-- The data the last host read returned (R72, R77). The model's own field: what the host has on its side of the bus. -/
  rdata : Word
  deriving DecidableEq, Repr

/-- The three outcomes of a step of this machine. -/
abbrev Result := Host.Outcome State Fault Refusal

/-- STATUS after reset: idle, with no error (R230). -/
def Status.reset : Status :=
  { busy := false, done := false, err := false, busErr := false, wrBusy := false, errCode := 0 }

/-- The IPv4 field registers after reset: all 0 (R26). -/
def IpRegs.reset : IpRegs :=
  { tos := 0, totLen := 0, id := 0, frag := 0, ttl := 0, proto := 0, csum := 0, src := 0, dst := 0 }

/-- The TCP field registers after reset: all 0 (R29). -/
def TcpRegs.reset : TcpRegs :=
  { sport := 0, dport := 0, seq := 0, ack := 0, rsv := 0, flags := 0, win := 0, urg := 0 }

/-- The accumulator with nothing added: its reset value (R34), and what ACC_CLEAR leaves (R111). -/
def Accum.empty : Accum := { acc := 0, pendV := false, pendB := 0 }

/-- The state after reset (R40, R230): every register 0, the built headers zero bytes, no byte of PMEM or FMEM written,
no command in flight, the reset input released, and no host event to come. The values of the last four fields are the
model's own (log entry 3). -/
def State.reset : State :=
  { ctrl := { ipLenMode := false, ipCsumMode := false }
    status := Status.reset
    lcmd := 0
    ip := IpRegs.reset
    tcp := TcpRegs.reset
    plen := 0
    csOff := 0
    csLen := 0
    cs := Accum.empty
    csResult := 0
    iph := Vector.replicate 20 0
    tcph := Vector.replicate 20 0
    psh := Vector.replicate 12 0
    flen := 0
    pmem := []
    fmem := []
    resetAsserted := false
    host := []
    latency := 0
    draws := 0
    rdata := 0 }

end Sys2Proof.Machine
end

