-- ==== Sys2Proof/Machine/Flags.lean ====
section
/-! DEFINITION. STATUS: its word, its error codes, and every way a bit of it changes (10_state.md R24, R32, R33;
60_exceptions.md R200; 20_memory.md R77; 70_reset_and_hazards.md R235, R236). -/

namespace Sys2Proof.Machine

/-- The errors a command can raise (R200). -/
inductive CmdError where
  /-- The word is no row of the opcode map. -/
  | illegal
  /-- An operand range lies outside its memory. -/
  | range
  /-- A computed 16-bit length would overflow. -/
  | tooLarge
  deriving DecidableEq, Repr

/-- The ERRCODE of an error (R200). -/
def CmdError.code : CmdError → BitVec 4
  | .illegal => 1
  | .range => 2
  | .tooLarge => 3

/-- STATUS as the host reads it (R24): bits 7:5 and 31:12 read 0. -/
def Status.toWord (st : Status) : Word :=
  (st.errCode ++ (0 : BitVec 3) ++ BitVec.ofBool st.wrBusy ++ BitVec.ofBool st.busErr ++ BitVec.ofBool st.err
    ++ BitVec.ofBool st.done ++ BitVec.ofBool st.busy : BitVec 12).setWidth 32

/-- An accepted CMD write (R32). -/
def Status.issued (st : Status) : Status :=
  { st with busy := true, done := false, err := false, errCode := 0 }

/-- Successful completion (R33). -/
def Status.finished (st : Status) : Status :=
  { st with busy := false, done := true }

/-- Failed completion with an error (R33, R203). -/
def Status.failed (c : CmdError) (st : Status) : Status :=
  { st with busy := false, err := true, errCode := c.code }

/-- A rejected bus access (R77). -/
def Status.markBusErr (st : Status) : Status := { st with busErr := true }

/-- A write dropped because BUSY = 1 (R236). -/
def Status.markWrBusy (st : Status) : Status := { st with wrBusy := true }

/-- A host write of STATUS: bits 3 and 4 are cleared where the data bit is 1, every other bit ignores the write
(R24, R235). -/
def Status.written (data : Word) (st : Status) : Status :=
  { st with busErr := st.busErr && !data.getLsbD 3, wrBusy := st.wrBusy && !data.getLsbD 4 }

/-- CTRL as the host reads it (R23). -/
def Ctrl.toWord (c : Ctrl) : Word :=
  (BitVec.ofBool c.ipCsumMode ++ BitVec.ofBool c.ipLenMode : BitVec 2).setWidth 32

/-- CTRL after a host write: bits 1:0 are kept, the rest dropped (R23, R22). -/
def Ctrl.ofWord (data : Word) : Ctrl :=
  { ipLenMode := data.getLsbD 0, ipCsumMode := data.getLsbD 1 }

end Sys2Proof.Machine
end

