-- ==== Sys2Proof/Machine/Ops.lean ====
section
/-! DEFINITION. The shared operations: reading and writing a byte memory (00_scope.md R11), issuing a command, ending
it in success, and ending it in an error. Ending in an error (`raise`) is this engine's whole exception: it saves no
state, changes no mode, uses no vector, and there is nothing to return from (60_exceptions.md R203, R208). -/

namespace Sys2Proof.Machine

/-- The byte at an address of a memory: none where nothing has been written since reset (R39). -/
def Memory.byteAt : Memory → Nat → Option Byte
  | [], _ => none
  | (k, b) :: rest, a => if k = a then some b else Memory.byteAt rest a

/-- R11's `MemRead(M, a, n)`: the bytes `M⟨a ..< a+n⟩`. The byte at `a + i` is what was written there, or, where
nothing was written since reset, the draw number `k + i` (R39, D43). -/
def Memory.read (m : Memory) (a n k : Nat) : List Byte :=
  (List.range n).map fun i => (Memory.byteAt m (a + i)).getD (Config.freeByte (k + i))

/-- The cells that put the bytes `bs` at `a`, `a + 1`, …. -/
def Memory.cells (a : Nat) : List Byte → Memory
  | [] => []
  | b :: bs => (a, b) :: Memory.cells (a + 1) bs

/-- R11's `MemWrite(M, a, bs)`: the bytes at `a ..< a + len(bs)` become `bs`; every other byte stays. -/
def Memory.write (m : Memory) (a : Nat) (bs : List Byte) : Memory :=
  m.filter (fun c => c.1 < a) ++ Memory.cells a bs ++ m.filter (fun c => a + bs.length ≤ c.1)

/-- R11's `finish`: the command ends successfully (R33). -/
def finish (s : State) : State := { s with status := s.status.finished }

/-- R11's `raise Error(c)`: the command ends, writes nothing but STATUS, and STATUS records the code (R33, R203). -/
def raise (c : CmdError) (s : State) : State := { s with status := s.status.failed c }

/-- An accepted CMD write latches the word and sets BUSY (R32). -/
def latch (w : Word) (s : State) : State := { s with lcmd := w, status := s.status.issued }

/-- Issuing a command: the word is latched and the command's LATENCY is drawn (R32, R241). -/
def issue (w : Word) (s : State) : State :=
  { latch w s with latency := Config.latency s.draws, draws := s.draws + 1 }

end Sys2Proof.Machine
end

