-- ==== Sys2Proof/Machine/Operands.lean ====
section
/-! DEFINITION. What a command reads: big-endian fields (00_scope.md R10, 20_memory.md R70), the memory SRC selects with
its size (30_encoding.md R93), the checksum range and the payload (10_state.md R31, R37), and the range and length
checks (60_exceptions.md R201, R202). -/

namespace Sys2Proof.Machine

/-- R10's `be16`: most significant byte first. -/
def be16 (v : Half) : List Byte := [v.extractLsb' 8 8, v.extractLsb' 0 8]

/-- R10's `be32`: most significant byte first. -/
def be32 (v : Word) : List Byte :=
  [v.extractLsb' 24 8, v.extractLsb' 16 8, v.extractLsb' 8 8, v.extractLsb' 0 8]

/-- The physical size in bytes of the memory SRC selects (R93). -/
def srcSize : Src → Nat
  | .pmem => Config.pmemSize
  | .fmem => Config.fmemSize
  | .iph => 20
  | .tcph => 20
  | .psh => 12

/-- The bytes `src⟨off ..< off+len⟩` a checksum command reads (R93, R112). -/
def srcRead (src : Src) (off len : Nat) (s : State) : List Byte :=
  match src with
  | .pmem => Memory.read s.pmem off len s.draws
  | .fmem => Memory.read s.fmem off len s.draws
  | .iph => (s.iph.toList.drop off).take len
  | .tcph => (s.tcph.toList.drop off).take len
  | .psh => (s.psh.toList.drop off).take len

/-- How many draw numbers a read of `len` bytes of the source takes: one a byte of PMEM or FMEM, none of a header. -/
def srcDraws (src : Src) (len : Nat) : Nat :=
  match src with
  | .pmem => len
  | .fmem => len
  | .iph => 0
  | .tcph => 0
  | .psh => 0

/-- The bytes of the checksum source range, `src⟨CS_OFF ..< CS_OFF+CS_LEN⟩` (R31, R112). -/
def rangeBytes (src : Src) (s : State) : List Byte := srcRead src s.csOff.toNat s.csLen.toNat s

/-- The RANGE check of ACC_ADD and CSUM: `CS_OFF + CS_LEN > size(SRC)`, exact, with no wrap (R201). -/
def rangeBad (src : Src) (s : State) : Bool := decide (srcSize src < s.csOff.toNat + s.csLen.toNat)

/-- The RANGE check of the commands that take a payload: `PLEN > PMEM_SIZE` (R201). -/
def payloadBad (s : State) : Bool := decide (Config.pmemSize < s.plen.toNat)

/-- The payload `PMEM⟨0 ..< PLEN⟩` (R37). -/
def payload (s : State) : List Byte := Memory.read s.pmem 0 s.plen.toNat s.draws

/-- `tcpSegmentLength`, exact (R151). -/
def segmentLength (s : State) : Nat := Config.tcpHdrLen + s.plen.toNat

/-- The computed IPv4 total length, exact: `20 + 20·T + PLEN` (R131). -/
def computedLength (t : Bool) (s : State) : Nat :=
  Config.ipHdrLen + (if t then Config.tcpHdrLen else 0) + s.plen.toNat

/-- A length that does not fit a 16-bit field (R202). -/
def tooLarge (len : Nat) : Bool := decide (0xFFFF < len)

end Sys2Proof.Machine
end

