-- ==== Sys2Proof/Machine/Bus.lean ====
section
/-! DEFINITION. The host bus: the register map, the header windows, the two memories, bus errors and the busy protocol
(20_memory.md R72 to R77, R81; 10_state.md R22 to R36; 70_reset_and_hazards.md R230, R234 to R236). -/

namespace Sys2Proof.Machine

/-- The named registers of the map (R74). -/
inductive Reg where
  | ctrl | status | cmd
  | ipTos | ipTotLen | ipId | ipFrag | ipTtl | ipProto | ipCsum | ipSrc | ipDst
  | tcpSport | tcpDport | tcpSeq | tcpAck | tcpRsv | tcpFlags | tcpWin | tcpUrg
  | plen | csOff | csLen
  | csAcc | csPend | csResult | flen
  deriving DecidableEq, Repr

/-- Every named register. -/
def Reg.all : List Reg :=
  [ .ctrl, .status, .cmd, .ipTos, .ipTotLen, .ipId, .ipFrag, .ipTtl, .ipProto, .ipCsum, .ipSrc, .ipDst,
    .tcpSport, .tcpDport, .tcpSeq, .tcpAck, .tcpRsv, .tcpFlags, .tcpWin, .tcpUrg, .plen, .csOff, .csLen,
    .csAcc, .csPend, .csResult, .flen ]

/-- The offset of a register (R74). -/
def Reg.offset : Reg → Nat
  | .ctrl => 0x000
  | .status => 0x004
  | .cmd => 0x008
  | .ipTos => 0x010
  | .ipTotLen => 0x014
  | .ipId => 0x018
  | .ipFrag => 0x01C
  | .ipTtl => 0x020
  | .ipProto => 0x024
  | .ipCsum => 0x028
  | .ipSrc => 0x02C
  | .ipDst => 0x030
  | .tcpSport => 0x040
  | .tcpDport => 0x044
  | .tcpSeq => 0x048
  | .tcpAck => 0x04C
  | .tcpRsv => 0x050
  | .tcpFlags => 0x054
  | .tcpWin => 0x058
  | .tcpUrg => 0x05C
  | .plen => 0x060
  | .csOff => 0x064
  | .csLen => 0x068
  | .csAcc => 0x070
  | .csPend => 0x074
  | .csResult => 0x078
  | .flen => 0x07C

/-- The register at an offset; none at a reserved offset (R74). -/
def regAt (o : Nat) : Option Reg := Reg.all.find? fun r => r.offset == o

/-- What a host read of a register returns while it is not a draw: the field in the low bits, 0 above (R22 to R36). A
read of CMD returns LCMD (R25). -/
def readReg (r : Reg) (s : State) : Word :=
  match r with
  | .ctrl => s.ctrl.toWord
  | .status => s.status.toWord
  | .cmd => s.lcmd
  | .ipTos => s.ip.tos.setWidth 32
  | .ipTotLen => s.ip.totLen.setWidth 32
  | .ipId => s.ip.id.setWidth 32
  | .ipFrag => s.ip.frag.setWidth 32
  | .ipTtl => s.ip.ttl.setWidth 32
  | .ipProto => s.ip.proto.setWidth 32
  | .ipCsum => s.ip.csum.setWidth 32
  | .ipSrc => s.ip.src
  | .ipDst => s.ip.dst
  | .tcpSport => s.tcp.sport.setWidth 32
  | .tcpDport => s.tcp.dport.setWidth 32
  | .tcpSeq => s.tcp.seq
  | .tcpAck => s.tcp.ack
  | .tcpRsv => s.tcp.rsv.setWidth 32
  | .tcpFlags => s.tcp.flags.setWidth 32
  | .tcpWin => s.tcp.win.setWidth 32
  | .tcpUrg => s.tcp.urg.setWidth 32
  | .plen => s.plen
  | .csOff => s.csOff
  | .csLen => s.csLen
  | .csAcc => s.cs.acc
  | .csPend => (BitVec.ofBool s.cs.pendV ++ s.cs.pendB : BitVec 9).setWidth 32
  | .csResult => s.csResult.setWidth 32
  | .flen => s.flen

/-- A host write of a register when it is not dropped (R22): a read-write register keeps the written bits of its field,
STATUS clears its W1C bits (R24), CMD issues a command (R25, R32), a read-only register ignores the write (D49). -/
def writeReg (r : Reg) (v : Word) (s : State) : State :=
  match r with
  | .ctrl => { s with ctrl := Ctrl.ofWord v }
  | .status => { s with status := s.status.written v }
  | .cmd => issue v s
  | .ipTos => { s with ip := { s.ip with tos := v.setWidth 8 } }
  | .ipTotLen => { s with ip := { s.ip with totLen := v.setWidth 16 } }
  | .ipId => { s with ip := { s.ip with id := v.setWidth 16 } }
  | .ipFrag => { s with ip := { s.ip with frag := v.setWidth 16 } }
  | .ipTtl => { s with ip := { s.ip with ttl := v.setWidth 8 } }
  | .ipProto => { s with ip := { s.ip with proto := v.setWidth 8 } }
  | .ipCsum => { s with ip := { s.ip with csum := v.setWidth 16 } }
  | .ipSrc => { s with ip := { s.ip with src := v } }
  | .ipDst => { s with ip := { s.ip with dst := v } }
  | .tcpSport => { s with tcp := { s.tcp with sport := v.setWidth 16 } }
  | .tcpDport => { s with tcp := { s.tcp with dport := v.setWidth 16 } }
  | .tcpSeq => { s with tcp := { s.tcp with seq := v } }
  | .tcpAck => { s with tcp := { s.tcp with ack := v } }
  | .tcpRsv => { s with tcp := { s.tcp with rsv := v.setWidth 4 } }
  | .tcpFlags => { s with tcp := { s.tcp with flags := v.setWidth 8 } }
  | .tcpWin => { s with tcp := { s.tcp with win := v.setWidth 16 } }
  | .tcpUrg => { s with tcp := { s.tcp with urg := v.setWidth 16 } }
  | .plen => { s with plen := v }
  | .csOff => { s with csOff := v }
  | .csLen => { s with csLen := v }
  | .csAcc => s
  | .csPend => s
  | .csResult => s
  | .flen => s

/-- The bits of an engine-written register that a host read can return as 1 while BUSY = 1: the width of its fields
(R22, R34, R36), and no bit for a register whose read is no draw (R81). -/
def busyMask : Reg → Option Word
  | .csAcc => some 0xFFFFFFFF
  | .csPend => some 0x1FF
  | .csResult => some 0xFFFF
  | .flen => some 0xFFFFFFFF
  | _ => none

/-- The number of bytes of an access (R73). -/
def AccessSize.bytes : AccessSize → Nat
  | .byte => 1
  | .half => 2
  | .word => 4

/-- The bits an access of this size can carry: data bits above `8n-1` are 0 on a read (R72). -/
def AccessSize.mask : AccessSize → Word
  | .byte => 0xFF
  | .half => 0xFFFF
  | .word => 0xFFFFFFFF

/-- Big-endian lanes: the first byte is the most significant (R72). -/
def laneWord (bs : List Byte) : Word := bs.foldl (fun w b => (w <<< 8) ||| b.setWidth 32) 0

/-- The bytes a write of this size moves, lowest address first: data bits `[8n-1:0]`, big-endian (R72). -/
def laneBytes (size : AccessSize) (v : Word) : List Byte := (be32 v).drop (4 - size.bytes)

/-- The header window word at an offset: its window's four bytes, big-endian (R72, R74). -/
def windowAt (o : Nat) (s : State) : Option Word :=
  if 0x100 ≤ o ∧ o < 0x10C then some (laneWord ((s.psh.toList.drop (o - 0x100)).take 4))
  else if 0x110 ≤ o ∧ o < 0x124 then some (laneWord ((s.iph.toList.drop (o - 0x110)).take 4))
  else if 0x130 ≤ o ∧ o < 0x144 then some (laneWord ((s.tcph.toList.drop (o - 0x130)).take 4))
  else none

/-- A bus error (R77): the unmapped range, a register-region access of size other than 4, or an access whose offset is
no multiple of its size (R75). -/
def busError (size : AccessSize) (o : Nat) : Bool :=
  if o < 0x200 then decide (size ≠ .word) || decide (o % 4 ≠ 0)
  else if o < 0x10000 then true
  else decide (o % size.bytes ≠ 0)

/-- The data of a host read that is no bus error, and how many draw numbers it takes (R74, R81, D43). -/
def busRead (size : AccessSize) (o : Nat) (s : State) : Word × Nat :=
  if o < 0x200 then
    match regAt o with
    | some r =>
      match busyMask r with
      | some m => if s.status.busy then (Config.freeWord s.draws &&& m, 1) else (readReg r s, 0)
      | none => (readReg r s, 0)
    | none =>
      match windowAt o s with
      | some w => if s.status.busy then (Config.freeWord s.draws, 1) else (w, 0)
      | none => (0, 0)
  else if o < 0x20000 then
    (laneWord (Memory.read s.pmem (o - 0x10000) size.bytes s.draws), size.bytes)
  else if o < 0x20000 + Config.fmemSize then
    if s.status.busy then (Config.freeWord s.draws &&& size.mask, 1)
    else (laneWord (Memory.read s.fmem (o - 0x20000) size.bytes s.draws), size.bytes)
  else (0, 0)

/-- A host write that is no bus error and is not dropped (R74): a register, PMEM, or nothing. -/
def busWrite (size : AccessSize) (o : Nat) (v : Word) (s : State) : State :=
  if o < 0x200 then
    match regAt o with
    | some r => writeReg r v s
    | none => s
  else if o < 0x20000 then { s with pmem := Memory.write s.pmem (o - 0x10000) (laneBytes size v) }
  else s

/-- One host access. A bus error drops a write or returns 0, and sets BUSERR (R77). A write while BUSY = 1 to any place
but STATUS is dropped and sets WRBUSY (R236). -/
def busAccess (a : Access) (s : State) : State :=
  match a with
  | .read size off =>
    if busError size off.toNat then { s with rdata := 0, status := s.status.markBusErr }
    else
      let r := busRead size off.toNat s
      { s with rdata := r.1, draws := s.draws + r.2 }
  | .write size off v =>
    if busError size off.toNat then { s with status := s.status.markBusErr }
    else if s.status.busy && off.toNat != Reg.status.offset then { s with status := s.status.markWrBusy }
    else busWrite size off.toNat v s

/-- The state while the reset input is asserted (R230): every register holds its reset value, a command in flight is
abandoned, and no byte of PMEM or FMEM counts as written. The host's coming events, the data it last read and the draw
counter are not the engine's: they stay, so that unspecified bytes can differ between resets (R39). -/
def inReset (s : State) : State :=
  { State.reset with resetAsserted := true, host := s.host, draws := s.draws, rdata := s.rdata }

/-- The offset of a platform bus address in the engine's block of 2^18 bytes at BASE; none outside it (R73, R7). -/
def offsetOfAddress (addr : Nat) : Option (BitVec 18) :=
  if Config.base ≤ addr ∧ addr < Config.base + 2 ^ 18 then some (BitVec.ofNat 18 (addr - Config.base)) else none

end Sys2Proof.Machine
end

