-- ==== Sys2Proof/Machine/Checksum.lean ====
section
/-! DEFINITION. The Internet checksum and the accumulator arithmetic (40_checksum.md R100 to R103, R112, R113). -/

namespace Sys2Proof.Machine

/-- The 16-bit big-endian words of a byte stream; a last odd byte is a high byte, as if one zero byte followed (R100). -/
def words : List Byte → List Nat
  | [] => []
  | [b] => [256 * b.toNat]
  | b :: c :: rest => (256 * b.toNat + c.toNat) :: words rest

/-- One's-complement accumulate at 32 bits with end-around carry (R101). -/
def ocadd (a : Word) (w : Nat) : Word :=
  let t := a.toNat + w
  BitVec.ofNat 32 ((t &&& 0xFFFFFFFF) + (t >>> 32))

/-- One pass of the fold: the bits above position 15 are added into the low 16 (R102). -/
def foldOnce (x : Nat) : Nat := (x &&& 0xFFFF) + (x >>> 16)

/-- At most `n` passes of R102's loop. -/
def foldFuel : Nat → Nat → Nat
  | 0, x => x
  | n + 1, x => if 0xFFFF < x then foldFuel n (foldOnce x) else x

/-- R102's fold: the loop runs until the value fits in 16 bits. Each pass of the loop lowers the value, so `x` passes
are enough. -/
def fold (x : Nat) : Nat := foldFuel x x

/-- The complement of a folded sum, at 16 bits (R103, R113). -/
def complement (x : Nat) : Half := ~~~(BitVec.ofNat 16 (fold x))

/-- The Internet checksum of a byte sequence (R103). -/
def checksum (s : List Byte) : Half := complement (words s).sum

/-- ACC_ADD's body for one byte: hold it, or pair it with the held byte and accumulate the word (R112). -/
def Accum.addByte (a : Accum) (c : Byte) : Accum :=
  if a.pendV then { acc := ocadd a.acc (256 * a.pendB.toNat + c.toNat), pendV := false, pendB := 0 }
  else { a with pendV := true, pendB := c }

/-- ACC_ADD's body over a byte sequence, in order (R112). -/
def Accum.addBytes (a : Accum) (bs : List Byte) : Accum := bs.foldl Accum.addByte a

/-- ACC_FINAL's result: a held byte is padded in a local value, which is folded and complemented (R113). -/
def Accum.final (a : Accum) : Half :=
  complement (if a.pendV then ocadd a.acc (256 * a.pendB.toNat) else a.acc).toNat

end Sys2Proof.Machine
end

