-- ==== Sys2Proof/Machine/Accumulator.lean ====
section
/-! DEFINITION. The checksum engine commands NOP, ACC_CLEAR, ACC_ADD, ACC_FINAL and CSUM (40_checksum.md R110 to R114). -/

namespace Sys2Proof.Machine

/-- The body of ACC_ADD over the source range: every byte is added and nothing else changes (R112). -/
def accumulate (src : Src) (s : State) : State :=
  { s with cs := s.cs.addBytes (rangeBytes src s), draws := s.draws + srcDraws src s.csLen.toNat }

/-- The body of ACC_FINAL: CS_RESULT, and nothing else (R113). -/
def finalise (s : State) : State := { s with csResult := s.cs.final }

/-- The body of ACC_CLEAR (R111). -/
def clearAccum (s : State) : State := { s with cs := Accum.empty }

/-- NOP (R110). -/
def execNop (s : State) : Result := .next (finish s)

/-- ACC_CLEAR (R111). -/
def execAccClear (s : State) : Result := .next (finish (clearAccum s))

/-- ACC_ADD (R112): the range is checked before a byte is read. -/
def execAccAdd (src : Src) (s : State) : Result :=
  if rangeBad src s then .next (raise .range s) else .next (finish (accumulate src s))

/-- ACC_FINAL (R113). -/
def execAccFinal (s : State) : Result := .next (finish (finalise s))

/-- CSUM (R114): as ACC_CLEAR, ACC_ADD and ACC_FINAL, with the range checked before any state changes. -/
def execCsum (src : Src) (s : State) : Result :=
  if rangeBad src s then .next (raise .range s) else .next (finish (finalise (accumulate src (clearAccum s))))

end Sys2Proof.Machine
end

