-- ==== Sys2Proof/Machine/Assemble.lean ====
section
/-! DEFINITION. The packet-frame concatenator: ASM_IP and ASM_TCP (43_assemble.md R180 to R182). -/

namespace Sys2Proof.Machine

/-- The frame of a header stack: the headers, then the payload (R180). -/
def frameBytes (headers : List Byte) (s : State) : List Byte := headers ++ payload s

/-- The frame is written to FMEM from offset 0, and FLEN is its length; FMEM beyond it is unchanged (R181, R182). -/
def writeFrame (headers : List Byte) (s : State) : State :=
  { s with
    fmem := Memory.write s.fmem 0 (frameBytes headers s)
    flen := BitVec.ofNat 32 (headers.length + s.plen.toNat)
    draws := s.draws + s.plen.toNat }

/-- ASM_IP (R181). -/
def execAsmIp (s : State) : Result :=
  if payloadBad s then .next (raise .range s) else .next (finish (writeFrame s.iph.toList s))

/-- ASM_TCP (R182). -/
def execAsmTcp (s : State) : Result :=
  if payloadBad s then .next (raise .range s) else .next (finish (writeFrame (s.iph.toList ++ s.tcph.toList) s))

end Sys2Proof.Machine
end

