-- ==== Sys2Proof/Machine/IpHeader.lean ====
section
/-! DEFINITION. The IPv4 header packer: BUILD_IP (41_ipv4.md R130 to R133). -/

namespace Sys2Proof.Machine

/-- The 20 bytes of the IPv4 header with total length `tl` and header checksum `c` (R130, R133). -/
def ipHeaderBytes (s : State) (tl c : Half) : List Byte :=
  [0x45, s.ip.tos] ++ be16 tl ++ be16 s.ip.id ++ be16 s.ip.frag ++ [s.ip.ttl, s.ip.proto] ++ be16 c
    ++ be32 s.ip.src ++ be32 s.ip.dst

/-- The header's length is 20 (R130). -/
theorem ipHeaderBytes_length (s : State) (tl c : Half) : (ipHeaderBytes s tl c).length = 20 := rfl

/-- The header checksum BUILD_IP writes: computed over the header with the final total length and a zero checksum
field, or supplied (R132). -/
def ipChecksum (s : State) (tl : Half) : Half :=
  if s.ctrl.ipCsumMode then checksum (ipHeaderBytes s tl 0) else s.ip.csum

/-- BUILD_IP's writes for a total length: IPH, and nothing else (R133). -/
def writeIpHeader (tl : Half) (s : State) : State :=
  { s with iph := ⟨(ipHeaderBytes s tl (ipChecksum s tl)).toArray, ipHeaderBytes_length s tl (ipChecksum s tl)⟩ }

/-- BUILD_IP (R133). In computed-length mode PLEN is checked, RANGE before TOO_LARGE (R205); in supplied-length mode
PLEN and T are ignored. -/
def execBuildIp (t : Bool) (s : State) : Result :=
  if s.ctrl.ipLenMode then
    if payloadBad s then .next (raise .range s)
    else if tooLarge (computedLength t s) then .next (raise .tooLarge s)
    else .next (finish (writeIpHeader (BitVec.ofNat 16 (computedLength t s)) s))
  else .next (finish (writeIpHeader s.ip.totLen s))

end Sys2Proof.Machine
end

