-- ==== Sys2Proof/Machine/TcpHeader.lean ====
section
/-! DEFINITION. The pseudo-header and TCP header packer: BUILD_PSEUDO and BUILD_TCP (42_tcp.md R150 to R157). -/

namespace Sys2Proof.Machine

/-- The 12 bytes of the pseudo-header (R150). -/
def pseudoBytes (s : State) : List Byte :=
  be32 s.ip.src ++ be32 s.ip.dst ++ [0x00, s.ip.proto] ++ be16 (BitVec.ofNat 16 (segmentLength s))

/-- The pseudo-header's length is 12 (R150). -/
theorem pseudoBytes_length (s : State) : (pseudoBytes s).length = 12 := rfl

/-- Byte 12 of the TCP header: data offset 5 and the four reserved bits, `0x50 | TCP_RSV` (R154). -/
def dataOffsetByte (rsv : BitVec 4) : Byte := 0x50 ||| rsv.setWidth 8

/-- The 20 bytes of the TCP header with checksum `c`; the draft is the header with checksum 0 (R153, R156). -/
def tcpHeaderBytes (s : State) (c : Half) : List Byte :=
  be16 s.tcp.sport ++ be16 s.tcp.dport ++ be32 s.tcp.seq ++ be32 s.tcp.ack
    ++ [dataOffsetByte s.tcp.rsv, s.tcp.flags] ++ be16 s.tcp.win ++ be16 c ++ be16 s.tcp.urg

/-- The header's length is 20 (R153). -/
theorem tcpHeaderBytes_length (s : State) (c : Half) : (tcpHeaderBytes s c).length = 20 := rfl

/-- The TCP checksum: over the pseudo-header, the draft header and the payload (R156). -/
def tcpChecksum (s : State) : Half := checksum (pseudoBytes s ++ tcpHeaderBytes s 0 ++ payload s)

/-- PSH is written (R152, R157). -/
def writePseudo (s : State) : State := { s with psh := ⟨(pseudoBytes s).toArray, pseudoBytes_length s⟩ }

/-- TCPH is written, its checksum computed over the payload read from PMEM (R157). -/
def writeTcpHeader (s : State) : State :=
  { s with
    tcph := ⟨(tcpHeaderBytes s (tcpChecksum s)).toArray, tcpHeaderBytes_length s (tcpChecksum s)⟩
    draws := s.draws + s.plen.toNat }

/-- BUILD_PSEUDO (R152). -/
def execBuildPseudo (s : State) : Result :=
  if payloadBad s then .next (raise .range s)
  else if tooLarge (segmentLength s) then .next (raise .tooLarge s)
  else .next (finish (writePseudo s))

/-- BUILD_TCP (R157): it writes PSH and TCPH. -/
def execBuildTcp (s : State) : Result :=
  if payloadBad s then .next (raise .range s)
  else if tooLarge (segmentLength s) then .next (raise .tooLarge s)
  else .next (finish (writePseudo (writeTcpHeader s)))

end Sys2Proof.Machine
end

