-- ==== Sys2Proof/Machine/Dispatch.lean ====
section
/-! DEFINITION. One arm per command: the meaning of each, by name. -/

namespace Sys2Proof.Machine

/-- What a command does to the state, completion included (10_state.md R33). -/
def exec (i : Instr) (s : State) : Host.Outcome State Fault Refusal :=
  match i with
  | .nop => Sys2Proof.Machine.execNop s
  | .accClear => Sys2Proof.Machine.execAccClear s
  | .accAdd src => Sys2Proof.Machine.execAccAdd src s
  | .accFinal => Sys2Proof.Machine.execAccFinal s
  | .csum src => Sys2Proof.Machine.execCsum src s
  | .buildIp t => Sys2Proof.Machine.execBuildIp t s
  | .buildPseudo => Sys2Proof.Machine.execBuildPseudo s
  | .buildTcp => Sys2Proof.Machine.execBuildTcp s
  | .asmIp => Sys2Proof.Machine.execAsmIp s
  | .asmTcp => Sys2Proof.Machine.execAsmTcp s

end Sys2Proof.Machine
end

