-- ==== Sys2Proof/Machine/Engine.lean ====
section
/-! DEFINITION. The two agents and whose turn it is (10_state.md R20, R33; 20_memory.md R80; 70_reset_and_hazards.md
R241): the engine's command step, one host event, and the order between them. -/

namespace Sys2Proof.Machine

/-- The engine's command step (R33): decode LCMD (R92) and carry out its rule, or raise ILLEGAL. -/
def engineStep (s : State) : Result :=
  match decode s.lcmd with
  | .ok i => exec i s
  | .error _ => .next (raise .illegal s)

/-- The access `poll` repeats: a 4-byte read of STATUS (R97). -/
def statusRead : Access := .read .word (BitVec.ofNat 18 Reg.status.offset)

/-- One event of the host, the first of its list; `rest` is what comes after it. An access happens and is gone. `poll`
reads STATUS and stays first in the list while BUSY read 1 (R97). Asserting reset resets the engine, and releasing it
leaves what it held (R230). -/
def hostEvent (e : HostEvent) (rest : List HostEvent) (s : State) : State :=
  match e with
  | .access a => busAccess a { s with host := rest }
  | .poll => busAccess statusRead { s with host := if s.status.busy then e :: rest else rest }
  | .assertReset => inReset { s with host := rest }
  | .releaseReset => { s with host := rest, resetAsserted := false }

/-- The engine moves next: a command is in flight, and its LATENCY has run out or the host has no access to come. -/
def engineTurn (s : State) : Bool := s.status.busy && (s.latency == 0 || s.host.isEmpty)

/-- One host event while a command is or is not in flight: it counts against the running command's LATENCY (R7). -/
def hostTurn (s : State) : State :=
  match s.host with
  | [] => s
  | e :: rest => hostEvent e rest { s with latency := s.latency - 1 }

/-- A step while the reset input is asserted: the host's next event meets the reset values, and every register holds
its reset value after it too, so that a write leaves nothing; releasing reset leaves the engine at its reset values
(R230). -/
def heldTurn (s : State) : State :=
  let t := hostTurn (inReset s)
  if t.resetAsserted then inReset t else t

/-- STATUS.ERRCODE holds a reserved value, which is never produced (R200, U6). -/
def reservedCode (s : State) : Bool := decide (3 < s.status.errCode.toNat)

/-- One step of the whole: while reset is asserted, a step of the engine held in reset (R230); else the engine's command
step where it is the engine's turn, else the next host event; with neither, the engine is idle and nothing changes
(R215, R231). -/
def turn (s : State) : Result :=
  if reservedCode s then .refused .reservedErrorCode
  else if s.resetAsserted then .next (heldTurn s)
  else if engineTurn s then engineStep s
  else .next (hostTurn s)

end Sys2Proof.Machine
end

