-- ==== Sys2Proof/Machine/Step.lean ====
section
/-! DEFINITION. The one step function, and where it fetches its next command: the command latched in LCMD by an accepted
CMD write (20_memory.md R84). -/

namespace Sys2Proof.Machine

/-- One step: an engine command step or one host event (R80). -/
def step (s : State) : Host.Outcome State Fault Refusal := turn s

/-- The state with a command word standing where the engine takes its next command: accepted into LCMD with BUSY set, as
R32 leaves it, with the reset input released and no host access before its step (R241 allows 0). -/
def State.withFetchWord (s : State) (nbits w : Nat) : State :=
  { latch (BitVec.ofNat 32 (w % 2 ^ nbits)) s with latency := 0, resetAsserted := false }

end Sys2Proof.Machine
end

