-- ==== Sys2Proof/Machine/HostProgram.lean ====
section
/-! DEFINITION. The host program operations of 30_encoding.md R96 and the pseudo-instructions of R97, each as the host
events it stands for. A pseudo-instruction has no encoding of its own: it is shorthand for host bus accesses. -/

namespace Sys2Proof.Machine

/-- The operations of R96 and R97. -/
inductive HostOp where
  | wr (r : Reg) (v : Word)
  | rd (r : Reg)
  | wrb (a : Nat) (v : Word)
  | wrh (a : Nat) (v : Word)
  | wrw (a : Nat) (v : Word)
  | rdb (a : Nat)
  | rdh (a : Nat)
  | rdw (a : Nat)
  | cmd (i : Instr)
  | poll
  | run (i : Instr)
  | load (a : Nat) (bs : List Byte)
  | checksum (src : Src) (off len : Word)
  | frameIp
  | frameTcp
  deriving DecidableEq, Repr

/-- A 4-byte write of a register (R96). -/
def wrEvent (r : Reg) (v : Word) : HostEvent := .access (.write .word (BitVec.ofNat 18 r.offset) v)

/-- A write of PMEM offset `a` (R96, R74). -/
def pmemWrite (size : AccessSize) (a : Nat) (v : Word) : HostEvent :=
  .access (.write size (BitVec.ofNat 18 (0x10000 + a)) v)

/-- A read of FMEM offset `a` (R96, R74). -/
def fmemRead (size : AccessSize) (a : Nat) : HostEvent :=
  .access (.read size (BitVec.ofNat 18 (0x20000 + a)))

/-- `load PMEM+a, [b0, …]`: one byte write for each byte, in order (R97). -/
def loadEvents (a : Nat) : List Byte → List HostEvent
  | [] => []
  | b :: bs => pmemWrite .byte a (b.setWidth 32) :: loadEvents (a + 1) bs

/-- `run X`: `cmd X` then `poll` (R97). -/
def runEvents (i : Instr) : List HostEvent := [wrEvent .cmd (encode i), .poll]

/-- The host events of an operation (R96, R97). -/
def HostOp.events : HostOp → List HostEvent
  | .wr r v => [wrEvent r v]
  | .rd r => [.access (.read .word (BitVec.ofNat 18 r.offset))]
  | .wrb a v => [pmemWrite .byte a v]
  | .wrh a v => [pmemWrite .half a v]
  | .wrw a v => [pmemWrite .word a v]
  | .rdb a => [fmemRead .byte a]
  | .rdh a => [fmemRead .half a]
  | .rdw a => [fmemRead .word a]
  | .cmd i => [wrEvent .cmd (encode i)]
  | .poll => [.poll]
  | .run i => runEvents i
  | .load a bs => loadEvents a bs
  | .checksum src off len => [wrEvent .csOff off, wrEvent .csLen len] ++ runEvents (.csum src)
  | .frameIp => runEvents (.buildIp false) ++ runEvents .asmIp
  | .frameTcp => runEvents (.buildIp true) ++ runEvents .buildTcp ++ runEvents .asmTcp

/-- The host events of a host program, in issue order (R80, R96). -/
def hostEvents (p : List HostOp) : List HostEvent := p.flatMap HostOp.events

end Sys2Proof.Machine
end

