-- ==== Sys2Proof/Safety.lean ====
section
/-! DEFINITION. The notions claims are stated in: the invariant of the machine, a clean run, which error a command must
report, a checksum stream fed in ranges, and the little-endian checksum the spec compares with. -/

namespace Sys2Proof.Machine

/-- The invariants of STATUS (10_state.md R24), with ERRCODE one of the produced values (60_exceptions.md R200). -/
structure Status.Ok (st : Status) : Prop where
  /-- BUSY and DONE are never both set. -/
  busyDone : ¬(st.busy = true ∧ st.done = true)
  /-- BUSY and ERR are never both set. -/
  busyErr : ¬(st.busy = true ∧ st.err = true)
  /-- DONE and ERR are never both set. -/
  doneErr : ¬(st.done = true ∧ st.err = true)
  /-- ERRCODE is nonzero exactly when ERR is set. -/
  codeErr : st.errCode ≠ 0 ↔ st.err = true
  /-- ERRCODE 4 to 15 are never produced. -/
  codeKnown : st.errCode.toNat ≤ 3

/-- The machine's invariant: what every state a run reaches satisfies. -/
structure State.Inv (s : State) : Prop where
  /-- STATUS is one of the spec's combinations (R24, R200). -/
  status : s.status.Ok
  /-- PEND_B is 0 while no byte is held (R111, R112). -/
  pend : s.cs.pendV = false → s.cs.pendB = 0
  /-- PMEM is in canonical form (R37). -/
  pmem : Memory.wf Config.pmemSize s.pmem
  /-- FMEM is in canonical form (R38). -/
  fmem : Memory.wf Config.fmemSize s.fmem
  /-- The frame fits in FMEM (R182). -/
  flen : s.flen.toNat ≤ Config.fmemSize
  /-- Every byte of the frame has been written (R38, R39). -/
  frame : ∀ a, a < s.flen.toNat → (Memory.byteAt s.fmem a).isSome = true
  /-- While reset is asserted every register holds its reset value and no byte counts as written (R230). -/
  held : s.resetAsserted = true → s = inReset s

/-- What the host-written registers, CTRL, STATUS and CMD among them, hold: the register's offset in the map (R74) and
the value of its fields, each at its bits (R23 to R31). Written from the tables on plain numbers, apart from the bus. -/
def hostRegisters (s : State) : List (Nat × Nat) :=
  [ (0x000, s.ctrl.ipLenMode.toNat + 2 * s.ctrl.ipCsumMode.toNat),
    (0x004, s.status.busy.toNat + 2 * s.status.done.toNat + 4 * s.status.err.toNat + 8 * s.status.busErr.toNat +
      16 * s.status.wrBusy.toNat + 256 * s.status.errCode.toNat),
    (0x008, s.lcmd.toNat),
    (0x010, s.ip.tos.toNat), (0x014, s.ip.totLen.toNat), (0x018, s.ip.id.toNat), (0x01C, s.ip.frag.toNat),
    (0x020, s.ip.ttl.toNat), (0x024, s.ip.proto.toNat), (0x028, s.ip.csum.toNat), (0x02C, s.ip.src.toNat),
    (0x030, s.ip.dst.toNat),
    (0x040, s.tcp.sport.toNat), (0x044, s.tcp.dport.toNat), (0x048, s.tcp.seq.toNat), (0x04C, s.tcp.ack.toNat),
    (0x050, s.tcp.rsv.toNat), (0x054, s.tcp.flags.toNat), (0x058, s.tcp.win.toNat), (0x05C, s.tcp.urg.toNat),
    (0x060, s.plen.toNat), (0x064, s.csOff.toNat), (0x068, s.csLen.toNat) ]

/-- What the engine-written registers hold, as `hostRegisters` (R34, R36, R74). -/
def resultRegisters (s : State) : List (Nat × Nat) :=
  [ (0x070, s.cs.acc.toNat), (0x074, s.cs.pendB.toNat + 256 * s.cs.pendV.toNat), (0x078, s.csResult.toNat),
    (0x07C, s.flen.toNat) ]

/-- The engine as reset leaves it (R40): every register 0, the built headers zero bytes, no byte of PMEM or FMEM with a
value, no command in flight. -/
def AtReset (s : State) : Prop :=
  (∀ p ∈ hostRegisters s ++ resultRegisters s, p.2 = 0) ∧
  (∀ b ∈ s.iph.toList ++ s.tcph.toList ++ s.psh.toList, b = 0) ∧
  (∀ a, Memory.byteAt s.pmem a = none ∧ Memory.byteAt s.fmem a = none) ∧
  s.status.busy = false

/-- A clean state: the host has made no rejected access and lost no write, which is what 92_eei_decisions.md D4 and D9
ask claims about a host program to assume. -/
def State.Clean (s : State) : Prop := s.status.busErr = false ∧ s.status.wrBusy = false

/-- The error R201, R202 and R205 make a legal command report, in the order RANGE, TOO_LARGE; none for a command whose
checks all pass. Written from those rules on plain numbers, apart from the commands' meanings. -/
def commandError (i : Instr) (s : State) : Option CmdError :=
  match i with
  | .nop => none
  | .accClear => none
  | .accAdd src => if s.csOff.toNat + s.csLen.toNat > srcSize src then some .range else none
  | .accFinal => none
  | .csum src => if s.csOff.toNat + s.csLen.toNat > srcSize src then some .range else none
  | .buildIp t =>
    if s.ctrl.ipLenMode = false then none
    else if s.plen.toNat > 65536 then some .range
    else if 20 + 20 * t.toNat + s.plen.toNat > 0xFFFF then some .tooLarge
    else none
  | .buildPseudo =>
    if s.plen.toNat > 65536 then some .range else if 20 + s.plen.toNat > 0xFFFF then some .tooLarge else none
  | .buildTcp =>
    if s.plen.toNat > 65536 then some .range else if 20 + s.plen.toNat > 0xFFFF then some .tooLarge else none
  | .asmIp => if s.plen.toNat > 65536 then some .range else none
  | .asmTcp => if s.plen.toNat > 65536 then some .range else none

/-- `Streamed t bs`: in `t` the accumulator has been cleared and then fed the ranges whose concatenation is `bs`
(R106). Between the commands anything may happen that leaves CS_ACC and CS_PEND alone: host writes, BUILD commands,
ACC_FINAL (R104, R113, R239). -/
inductive Streamed : State → List Byte → Prop where
  /-- ACC_CLEAR starts a stream. -/
  | clear {s t : State} : exec .accClear s = .next t → Streamed t []
  /-- ACC_ADD over a legal range adds the bytes it reads. -/
  | add {s u t : State} {bs : List Byte} {src : Src} :
      Streamed s bs → u.cs = s.cs → u.csOff.toNat + u.csLen.toNat ≤ srcSize src →
      exec (.accAdd src) u = .next t → Streamed t (bs ++ rangeBytes src u)

/-- The word of a pair of bytes under the other byte order (R109). -/
def wordsLittle : List Byte → List Nat
  | [] => []
  | [b] => [b.toNat]
  | b :: c :: rest => (b.toNat + 256 * c.toNat) :: wordsLittle rest

/-- The checksum with its words grouped little-endian (R109). -/
def checksumLittle (s : List Byte) : Half := complement (wordsLittle s).sum

/-- A 16-bit value with its two bytes exchanged (R109). -/
def swapBytes (v : Half) : Half := v.extractLsb' 0 8 ++ v.extractLsb' 8 8

/-- A byte sequence with a 16-bit value written at an index, most significant byte first (R107). -/
def insert16 (s : List Byte) (k : Nat) (c : Half) : List Byte :=
  (s.set k (c.extractLsb' 8 8)).set (k + 1) (c.extractLsb' 0 8)

/-- The 16-bit big-endian value of two bytes (R70). -/
def pair (hi lo : Byte) : Nat := 256 * hi.toNat + lo.toNat

/-- Two states with the same frame: FLEN, and every byte of FMEM below it (R186). -/
def SameFrame (s t : State) : Prop :=
  t.flen = s.flen ∧ ∀ a, a < s.flen.toNat → Memory.byteAt t.fmem a = Memory.byteAt s.fmem a

end Sys2Proof.Machine
end

