-- ==== Sys2Proof/Certificates/Slice0/Obligations.lean ====
section
/-! DEFINITION. The statements for the provers, one `def Obligations.<Name> : Prop` each, listed in OBLIGATIONS.json.
A draw number `d` under an existential is the model's own counter (log entry 2): a statement says nothing about it. -/

open Sys2Proof Sys2Proof.Machine

/-! ### Reset and the invariant -/

/-- R40: after reset every register holds and reads 0, the built headers are zero bytes, no byte of PMEM or FMEM has a
value, and no command is in flight. -/
def Obligations.ResetLeavesZeroRegisters : Prop :=
  AtReset State.reset ∧ ∀ r ∈ Reg.all, readReg r State.reset = 0

/-- R230: asserting the reset input, in any state in which it is not the engine's turn, abandons a command in flight and
leaves the engine as R40 says, held in reset; the host's later events stay to come. -/
def Obligations.ResetInputAbandonsCommand : Prop :=
  ∀ (s : State) (rest : List HostEvent), s.status.errCode.toNat ≤ 3 → s.host = .assertReset :: rest →
    (s.resetAsserted = false → s.status.busy = true → 0 < s.latency) →
    ∃ t, step s = .next t ∧ AtReset t ∧ t.resetAsserted = true ∧ t.host = rest

/-- R230: while the reset input is asserted, whatever the host does next, every register holds its reset value after the
step, no byte of PMEM or FMEM has a value and no command is in flight, so that a write leaves nothing; an aligned read of
the register region returns 0; and the input stays asserted until the host's event is its release, after which the
registers still hold their reset values. -/
def Obligations.ResetHoldsRegisters : Prop :=
  ∀ s : State, s.status.errCode.toNat ≤ 3 → s.resetAsserted = true →
    ∃ t, step s = .next t ∧ AtReset t ∧ t.host = s.host.tail ∧
      (t.resetAsserted = false ↔ ∃ rest, s.host = .releaseReset :: rest) ∧
      (∀ o rest, o % 4 = 0 → o < 0x200 → s.host = .access (.read .word (BitVec.ofNat 18 o)) :: rest → t.rdata = 0)

/-- The invariant holds after reset. -/
def Obligations.ResetSatisfiesInv : Prop := State.reset.Inv

/-- Every step keeps the invariant: the STATUS invariants of R24, the canonical form of both memories, PEND_B 0 while no
byte is held, a frame that fits FMEM and is wholly written, and the reset values while reset is asserted (R230). -/
def Obligations.StepKeepsInv : Prop :=
  ∀ s t : State, s.Inv → step s = .next t → t.Inv

/-- From a state with the invariant a step always gives a next state: the engine has no fault and no trap (R208). -/
def Obligations.StepAlwaysAnswersNext : Prop :=
  ∀ s : State, s.Inv → ∃ t, step s = .next t ∧ t.status.errCode.toNat ≤ 3

/-! ### Decoding -/

/-- A word decodes to a command exactly when it is that command's word: no bit of an encoding is dropped, every command
has one word, and no other word decodes to it. -/
def Obligations.DecodeAndEncodeAgree : Prop :=
  ∀ (w : Word) (i : Instr), decode w = .ok i ↔ encode i = w

/-- R92: the step of a command word that R92's `legal` admits is the step of the command it decodes to, and any other
word raises ILLEGAL and writes nothing except STATUS. -/
def Obligations.IllegalWordRaisesIllegal : Prop :=
  ∀ s : State,
    ((fieldsOf s.lcmd).wellFormed = true → ∃ i, decode s.lcmd = .ok i ∧ engineStep s = exec i s) ∧
    ((fieldsOf s.lcmd).wellFormed = false →
      ∃ t, engineStep s = .next t ∧ t = { s with status := t.status } ∧
        t.status = { s.status with busy := false, err := true, errCode := 1 })

/-- R91, R95: a word decodes exactly when it matches one row of the opcode table, and then only one. -/
def Obligations.DecodeIsTheOpcodeTable : Prop :=
  ∀ w : Word, (∃ i, decode w = .ok i) ↔ (opcodeRows.filter (·.matchesWord w)).length = 1

/-- Command words written out from R91 and R93, each with its command and every SRC value, and words R95 rejects. -/
def Obligations.ListedWordsDecode : Prop :=
  decode 0x00000000 = .ok .nop ∧ decode 0x00000001 = .ok .accClear ∧ decode 0x00000002 = .ok (.accAdd .pmem) ∧
  decode 0x00000102 = .ok (.accAdd .fmem) ∧ decode 0x00000202 = .ok (.accAdd .iph) ∧
  decode 0x00000302 = .ok (.accAdd .tcph) ∧ decode 0x00000402 = .ok (.accAdd .psh) ∧
  decode 0x00000003 = .ok .accFinal ∧ decode 0x00000004 = .ok (.csum .pmem) ∧ decode 0x00000104 = .ok (.csum .fmem) ∧
  decode 0x00000204 = .ok (.csum .iph) ∧ decode 0x00000304 = .ok (.csum .tcph) ∧ decode 0x00000404 = .ok (.csum .psh) ∧
  decode 0x00001010 = .ok (.buildIp true) ∧
  decode 0x00000010 = .ok (.buildIp false) ∧ decode 0x00000011 = .ok .buildPseudo ∧ decode 0x00000012 = .ok .buildTcp ∧
  decode 0x00000020 = .ok .asmIp ∧ decode 0x00000021 = .ok .asmTcp ∧
  decode 0x00000502 = .error .reservedSource ∧ decode 0x00001011 = .error .transportNotUsed ∧
  decode 0x00000121 = .error .sourceNotUsed ∧ decode 0x00000005 = .error .reservedOpcode ∧
  decode 0x80000000 = .error .reservedBits

/-! ### The step: whose turn it is -/

/-- R33, R92: in the engine's turn (reset released, a command in flight whose LATENCY has run out, or no host access to
come) a step is `exec` of the command LCMD decodes to, and nothing else. -/
def Obligations.StepRunsDecodedCommand : Prop :=
  ∀ (s : State) (i : Instr), s.status.errCode.toNat ≤ 3 → s.resetAsserted = false → s.status.busy = true →
    (s.latency = 0 ∨ s.host = []) → decode s.lcmd = .ok i → step s = exec i s

/-- R20, R80: with reset released, when it is not the engine's turn, a step is the host's next access, counted against
the running command's LATENCY; with nothing to come, nothing changes. (An access while reset is asserted is
`ResetHoldsRegisters`.) -/
def Obligations.StepTakesHostAccess : Prop :=
  ∀ s : State, s.status.errCode.toNat ≤ 3 → s.resetAsserted = false →
    (∀ a rest, s.host = .access a :: rest → (s.status.busy = true → 0 < s.latency) →
      step s = .next (busAccess a { s with host := rest, latency := s.latency - 1 })) ∧
    (s.status.busy = false → s.host = [] → step s = .next s)

/-- R241, R230: every issued command completes, with DONE or ERR, within as many host events as its LATENCY allows and
one engine step, whatever the host does, unless the host asserts reset first, which abandons it. (That LATENCY is a count
in State, and that reset is one of the host's events, are the model's choices: log entries 5 and 8.) -/
def Obligations.IssuedCommandCompletes : Prop :=
  ∀ s : State, s.Inv → s.status.busy = true →
    ∃ n t, n ≤ s.latency + 1 ∧ Host.Core.run core n s = .next t ∧ t.status.busy = false ∧
      ((t.resetAsserted = false ∧ (t.status.done = true ∨ t.status.err = true)) ∨
        (t.resetAsserted = true ∧ HostEvent.assertReset ∈ s.host))

/-- R20: the engine becomes busy only by an access that writes the CMD register, a 4-byte write at offset 0x008 while
reset is released, and LCMD is then the word written. -/
def Obligations.OnlyCmdWriteStartsCommand : Prop :=
  ∀ s t : State, step s = .next t → s.status.busy = false → t.status.busy = true →
    s.resetAsserted = false ∧ ∃ v rest, s.host = .access (.write .word 0x008 v) :: rest ∧ t.lcmd = v

/-- R186: the frame, FLEN and the bytes of FMEM below it, changes only when the step is a successful ASM_IP or ASM_TCP, in
the engine's turn, or is the reset input's assertion, in the host's. (Whose turn it is, that reset is one of the host's
events and that these are a list are the model's choices: log entries 5, 8 and 9.) -/
def Obligations.FrameChangesOnlyByAssembleOrReset : Prop :=
  ∀ s t : State, s.Inv → step s = .next t → ¬SameFrame s t →
    (s.status.busy = true ∧ (s.latency = 0 ∨ s.host = []) ∧ (decode s.lcmd = .ok .asmIp ∨ decode s.lcmd = .ok .asmTcp) ∧
      t.status.done = true) ∨
    ((s.status.busy = true → 0 < s.latency) ∧ (∃ rest, s.host = .assertReset :: rest) ∧ t.resetAsserted = true)

/-! ### The checksum function -/

/-- R103 over R100's words: the checksum of any byte sequence is the complement, at 16 bits, of the fold of the exact sum
of the padded stream's big-endian words, word `k` being `256·p⟨2k⟩ + p⟨2k+1⟩`; of the empty sequence it is 0xFFFF. -/
def Obligations.ChecksumOfPaddedWords : Prop :=
  (∀ s p : List Byte, p = (if s.length % 2 = 1 then s ++ [0] else s) →
    (checksum s).toNat =
      0xFFFF - fold (((List.range (p.length / 2)).map fun k => pair (p.getD (2 * k) 0) (p.getD (2 * k + 1) 0)).sum)) ∧
  checksum [] = 0xFFFF

/-- R101: `ocadd` adds exactly, and where the sum leaves 32 bits the carry comes round into bit 0, which leaves at most
0xFFFF. -/
def Obligations.EndAroundCarry : Prop :=
  ∀ (a : Word) (w : Nat), w ≤ 0xFFFF →
    (a.toNat + w < 2 ^ 32 → (ocadd a w).toNat = a.toNat + w) ∧
    (2 ^ 32 ≤ a.toNat + w → (ocadd a w).toNat = a.toNat + w - 2 ^ 32 + 1 ∧ (ocadd a w).toNat ≤ 0xFFFF)

/-- R102: `fold` runs R102's loop to its end, at most twice for a 32-bit value; `fold(0) = 0`; and for `x > 0` it is the
unique value in 1..0xFFFF congruent to `x` modulo 0xFFFF. -/
def Obligations.FoldIsResidue : Prop :=
  (∀ x, fold x = if 0xFFFF < x then fold ((x &&& 0xFFFF) + (x >>> 16)) else x) ∧
  (∀ x, x < 2 ^ 32 → foldFuel 2 x = fold x) ∧ fold 0 = 0 ∧
  (∀ x, 0 < x → (1 ≤ fold x ∧ fold x ≤ 0xFFFF ∧ fold x % 0xFFFF = x % 0xFFFF) ∧
    ∀ y, 1 ≤ y → y ≤ 0xFFFF → y % 0xFFFF = x % 0xFFFF → y = fold x)

/-- R105: the 32-bit end-around-carry accumulator is congruent to the exact sum modulo 0xFFFF, is 0 exactly when every
word is, and so folds to the same value, for any number of words. -/
def Obligations.AccumulatorEquivalence : Prop :=
  ∀ ws : List Nat, (∀ w ∈ ws, w ≤ 0xFFFF) →
    (ws.foldl ocadd 0).toNat % 0xFFFF = ws.sum % 0xFFFF ∧
    (ws.foldl ocadd 0 = 0 ↔ ∀ w ∈ ws, w = 0) ∧
    fold (ws.foldl ocadd 0).toNat = fold ws.sum

/-- R107: a checksum written into a zeroed 16-bit field at an even offset makes the checksum of the whole 0; at an odd
offset that fails in general. -/
def Obligations.SelfVerification : Prop :=
  (∀ (s : List Byte) (m : Nat), 2 * m + 1 < s.length → s.getD (2 * m) 0 = 0 → s.getD (2 * m + 1) 0 = 0 →
    checksum (insert16 s (2 * m) (checksum s)) = 0) ∧
  (∃ (s : List Byte) (m : Nat), 2 * m + 2 < s.length ∧ s.getD (2 * m + 1) 0 = 0 ∧ s.getD (2 * m + 2) 0 = 0 ∧
    checksum (insert16 s (2 * m + 1) (checksum s)) ≠ 0)

/-- R108: the checksum is 0xFFFF exactly when every word is 0, and 0x0000 exactly when the sum is positive and a
multiple of 0xFFFF; `[0xFF, 0xFF]` gives 0x0000. -/
def Obligations.ChecksumExtremes : Prop :=
  ∀ s : List Byte,
    (checksum s = 0xFFFF ↔ ∀ w ∈ words s, w = 0) ∧
    (checksum s = 0 ↔ 0 < (words s).sum ∧ (words s).sum % 0xFFFF = 0) ∧
    checksum [0xFF, 0xFF] = 0

/-- R109: grouping and writing little-endian writes the same bytes as grouping and writing big-endian; grouping in one
order and writing in the other writes them swapped, and self-verifies exactly when the two bytes are equal. -/
def Obligations.ByteOrderConsistency : Prop :=
  ∀ s : List Byte, checksum s = swapBytes (checksumLittle s) ∧
    ∀ m, 2 * m + 1 < s.length → s.getD (2 * m) 0 = 0 → s.getD (2 * m + 1) 0 = 0 →
      (checksumLittle (insert16 s (2 * m) (checksumLittle s)) = 0 ↔
        (checksumLittle s).extractLsb' 8 8 = (checksumLittle s).extractLsb' 0 8) ∧
      (checksum (insert16 s (2 * m) (swapBytes (checksum s))) = 0 ↔
        (checksum s).extractLsb' 8 8 = (checksum s).extractLsb' 0 8)

/-! ### The checksum engine commands -/

/-- R110: NOP completes with DONE and writes STATUS only. -/
def Obligations.NopWritesStatusOnly : Prop :=
  ∀ s : State, exec .nop s = .next { s with status := { s.status with busy := false, done := true } }

/-- R111: ACC_CLEAR completes with CS_ACC and CS_PEND 0, and writes nothing else but STATUS. -/
def Obligations.AccClearZeroesAccumulator : Prop :=
  ∀ s : State, ∃ t, exec .accClear s = .next t ∧ t.cs.acc = 0 ∧ t.cs.pendV = false ∧ t.cs.pendB = 0 ∧
    t.status = { s.status with busy := false, done := true } ∧ { t with cs := s.cs, status := s.status } = s

/-- R112: ACC_ADD over a legal range completes. Seen as one byte stream, the held byte followed by the range, its
complete pairs are accumulated in order with end-around carry and a last odd byte is held. Nothing else changes but
STATUS. (The draw counter is the model's own.) -/
def Obligations.AccAddAccumulatesRange : Prop :=
  ∀ (src : Src) (s : State) (stream : List Byte), (s.cs.pendV = false → s.cs.pendB = 0) →
    s.csOff.toNat + s.csLen.toNat ≤ srcSize src →
    stream = (if s.cs.pendV then [s.cs.pendB] else []) ++ rangeBytes src s →
    ∃ t, exec (.accAdd src) s = .next t ∧
      t.cs.acc = (words (stream.take (stream.length / 2 * 2))).foldl ocadd s.cs.acc ∧
      (t.cs.pendV = true ↔ stream.length % 2 = 1) ∧
      t.cs.pendB = (if stream.length % 2 = 1 then stream.getLastD 0 else 0) ∧
      t.status = { s.status with busy := false, done := true } ∧
      { t with cs := s.cs, status := s.status, draws := s.draws } = s

/-- What a checksum command reads (R39, R72, R93, R112): CS_LEN bytes, the `i`-th of them the byte at CS_OFF + `i` of the
memory SRC selects: of PMEM and FMEM wherever a byte has been written, of a built header always. The sizes a range must
fit are R93's. -/
def Obligations.ChecksumRangeReadsSource : Prop :=
  (srcSize .pmem = 65536 ∧ srcSize .fmem = 65576 ∧ srcSize .iph = 20 ∧ srcSize .tcph = 20 ∧ srcSize .psh = 12) ∧
  ∀ (src : Src) (s : State), s.csOff.toNat + s.csLen.toNat ≤ srcSize src →
    (rangeBytes src s).length = s.csLen.toNat ∧
    ∀ i, i < s.csLen.toNat →
      match src with
      | .pmem => ∀ b, Memory.byteAt s.pmem (s.csOff.toNat + i) = some b → (rangeBytes src s)[i]? = some b
      | .fmem => ∀ b, Memory.byteAt s.fmem (s.csOff.toNat + i) = some b → (rangeBytes src s)[i]? = some b
      | .iph => (rangeBytes src s)[i]? = s.iph[s.csOff.toNat + i]?
      | .tcph => (rangeBytes src s)[i]? = s.tcph[s.csOff.toNat + i]?
      | .psh => (rangeBytes src s)[i]? = s.psh[s.csOff.toNat + i]?

/-- R113: ACC_FINAL completes with CS_RESULT the complemented fold of ACC, a held byte padded in a local value only;
ACC, PEND and everything else but STATUS are unchanged. -/
def Obligations.AccFinalFoldsAndComplements : Prop :=
  ∀ s : State, ∃ t, exec .accFinal s = .next t ∧
    t.csResult.toNat =
      0xFFFF - fold (if s.cs.pendV then ocadd s.cs.acc (256 * s.cs.pendB.toNat) else s.cs.acc).toNat ∧
    t.status = { s.status with busy := false, done := true } ∧ { t with csResult := s.csResult, status := s.status } = s

/-- R114: CSUM over a legal range completes with CS_RESULT the Internet checksum of the range, and the accumulator
holding the range's accumulated state, whatever it held before. Nothing else changes but STATUS. -/
def Obligations.CsumIsTheChecksumOfTheRange : Prop :=
  ∀ (src : Src) (s : State) (r : List Byte), s.csOff.toNat + s.csLen.toNat ≤ srcSize src → r = rangeBytes src s →
    ∃ t, exec (.csum src) s = .next t ∧ t.csResult = checksum r ∧
      t.cs.acc = (words (r.take (r.length / 2 * 2))).foldl ocadd 0 ∧
      (t.cs.pendV = true ↔ r.length % 2 = 1) ∧ t.cs.pendB = (if r.length % 2 = 1 then r.getLastD 0 else 0) ∧
      t.status = { s.status with busy := false, done := true } ∧
      { t with cs := s.cs, csResult := s.csResult, status := s.status, draws := s.draws } = s

/-- R106: after ACC_CLEAR and ACC_ADDs over ranges of any lengths and parities, with anything between them that leaves
the accumulator alone, ACC_FINAL writes the checksum of the ranges' concatenation. -/
def Obligations.StreamedRangesChecksum : Prop :=
  ∀ (s u : State) (bs : List Byte), Streamed s bs → u.cs = s.cs →
    ∃ t, exec .accFinal u = .next t ∧ t.csResult = checksum bs ∧ t.cs = s.cs

/-! ### Errors -/

/-- R200, R201, R202, R205: a command reports exactly the first of its errors, RANGE (ERRCODE 2) before TOO_LARGE
(ERRCODE 3), with nothing but STATUS changed, and one whose checks all pass completes with DONE. -/
def Obligations.CommandReportsItsFirstError : Prop :=
  ∀ (i : Instr) (s : State),
    (commandError i s = some .range →
      exec i s = .next { s with status := { s.status with busy := false, err := true, errCode := 2 } }) ∧
    (commandError i s = some .tooLarge →
      exec i s = .next { s with status := { s.status with busy := false, err := true, errCode := 3 } }) ∧
    commandError i s ≠ some .illegal ∧
    (commandError i s = none →
      ∃ t, exec i s = .next t ∧ t.status = { s.status with busy := false, done := true })

/-- R203, R200: a command step that ends in an error leaves LCMD the failing word and every register and every memory
byte as before; BUSY is clear, ERR is set, and ERRCODE is the error's: 1 for a word that is no command, 2 for RANGE, 3
for TOO_LARGE. -/
def Obligations.FailedCommandIsPrecise : Prop :=
  ∀ (s t : State), engineStep s = .next t → s.status.err = false → t.status.err = true →
    t.lcmd = s.lcmd ∧ { t with status := s.status } = s ∧
    (∀ a, Memory.byteAt t.pmem a = Memory.byteAt s.pmem a ∧ Memory.byteAt t.fmem a = Memory.byteAt s.fmem a) ∧
    ∃ code : BitVec 4, t.status = { s.status with busy := false, err := true, errCode := code } ∧
      ((code = 1 ∧ ∀ i, decode s.lcmd ≠ .ok i) ∨
        ∃ i, decode s.lcmd = .ok i ∧
          ((code = 2 ∧ commandError i s = some .range) ∨ (code = 3 ∧ commandError i s = some .tooLarge)))

/-- R26, R29, R31, R37, R206: no command writes CTRL, a field or operand register, LCMD, PMEM or the sticky bus bits. -/
def Obligations.CommandsNeverWriteHostState : Prop :=
  ∀ (i : Instr) (s t : State), exec i s = .next t →
    t.ctrl = s.ctrl ∧ t.lcmd = s.lcmd ∧ t.ip = s.ip ∧ t.tcp = s.tcp ∧ t.plen = s.plen ∧ t.csOff = s.csOff ∧
    t.csLen = s.csLen ∧ (∀ a, Memory.byteAt t.pmem a = Memory.byteAt s.pmem a) ∧
    t.status.busErr = s.status.busErr ∧ t.status.wrBusy = s.status.wrBusy

/-- R34, R35, R36, R104: which command writes which engine-written register, and that no other does: CS_ACC and CS_PEND,
CS_RESULT, IPH, TCPH, PSH, FLEN, and every byte of FMEM. -/
def Obligations.CommandsWriteOnlyTheirResults : Prop :=
  ∀ (i : Instr) (s t : State), exec i s = .next t →
    ((i ≠ .accClear ∧ (∀ src, i ≠ .accAdd src) ∧ ∀ src, i ≠ .csum src) → t.cs = s.cs) ∧
    ((i ≠ .accFinal ∧ ∀ src, i ≠ .csum src) → t.csResult = s.csResult) ∧
    ((∀ tf, i ≠ .buildIp tf) → t.iph = s.iph) ∧
    (i ≠ .buildTcp → t.tcph = s.tcph) ∧
    ((i ≠ .buildPseudo ∧ i ≠ .buildTcp) → t.psh = s.psh) ∧
    ((i ≠ .asmIp ∧ i ≠ .asmTcp) → t.flen = s.flen ∧ ∀ a, Memory.byteAt t.fmem a = Memory.byteAt s.fmem a)

/-! ### The header packers -/

/-- R133: BUILD_IP completes in supplied-length mode always, and in computed-length mode where the length fits; IPH holds
each field big-endian in its place, the total length and the checksum each supplied or computed; nothing else changes
but STATUS. -/
def Obligations.BuildIpPacksHeader : Prop :=
  ∀ (tf : Bool) (s : State), (s.ctrl.ipLenMode = true → 20 + 20 * tf.toNat + s.plen.toNat ≤ 0xFFFF) →
    ∃ t, exec (.buildIp tf) s = .next t ∧
      t.iph[0] = 0x45 ∧ t.iph[1] = s.ip.tos ∧
      pair t.iph[2] t.iph[3] = (if s.ctrl.ipLenMode then 20 + 20 * tf.toNat + s.plen.toNat else s.ip.totLen.toNat) ∧
      pair t.iph[4] t.iph[5] = s.ip.id.toNat ∧ pair t.iph[6] t.iph[7] = s.ip.frag.toNat ∧
      t.iph[8] = s.ip.ttl ∧ t.iph[9] = s.ip.proto ∧
      pair t.iph[10] t.iph[11] =
        (if s.ctrl.ipCsumMode then (checksum (insert16 t.iph.toList 10 0)).toNat else s.ip.csum.toNat) ∧
      2 ^ 16 * pair t.iph[12] t.iph[13] + pair t.iph[14] t.iph[15] = s.ip.src.toNat ∧
      2 ^ 16 * pair t.iph[16] t.iph[17] + pair t.iph[18] t.iph[19] = s.ip.dst.toNat ∧
      t.status = { s.status with busy := false, done := true } ∧ { t with iph := s.iph, status := s.status } = s

/-- R134: after every successful BUILD_IP, IPH is 20 bytes and its first is 0x45. -/
def Obligations.BuiltIpHeaderShape : Prop :=
  ∀ (tf : Bool) (s t : State), exec (.buildIp tf) s = .next t → s.status.done = false → t.status.done = true →
    t.iph.toList.length = 20 ∧ t.iph.toList.head? = some 0x45

/-- R135: after a successful BUILD_IP with IP_CSUM_MODE = 1 the checksum of IPH is 0, and CSUM over the 20 bytes of IPH,
in any state that still holds that IPH, gives CS_RESULT = 0. -/
def Obligations.BuiltIpHeaderSelfVerifies : Prop :=
  ∀ (tf : Bool) (s t u : State), s.ctrl.ipCsumMode = true → exec (.buildIp tf) s = .next t →
    s.status.done = false → t.status.done = true →
    checksum t.iph.toList = 0 ∧
    (u.iph = t.iph → u.csOff = 0 → u.csLen = 20 → ∃ v, exec (.csum .iph) u = .next v ∧ v.csResult = 0)

/-- R152: BUILD_PSEUDO completes where the segment length fits; PSH holds each field big-endian in its place; nothing
else changes but STATUS. -/
def Obligations.BuildPseudoPacksHeader : Prop :=
  ∀ s : State, 20 + s.plen.toNat ≤ 0xFFFF →
    ∃ t, exec .buildPseudo s = .next t ∧
      2 ^ 16 * pair t.psh[0] t.psh[1] + pair t.psh[2] t.psh[3] = s.ip.src.toNat ∧
      2 ^ 16 * pair t.psh[4] t.psh[5] + pair t.psh[6] t.psh[7] = s.ip.dst.toNat ∧
      t.psh[8] = 0 ∧ t.psh[9] = s.ip.proto ∧ pair t.psh[10] t.psh[11] = 20 + s.plen.toNat ∧
      t.status = { s.status with busy := false, done := true } ∧ { t with psh := s.psh, status := s.status } = s

/-- R157: BUILD_TCP completes where the segment length fits; TCPH holds each field big-endian in its place, data offset 5
beside TCP_RSV, and the checksum computed over the pseudo-header, the draft header and the payload read; PSH holds the
pseudo-header; nothing else changes but STATUS. -/
def Obligations.BuildTcpPacksHeader : Prop :=
  ∀ s : State, 20 + s.plen.toNat ≤ 0xFFFF →
    ∃ t, exec .buildTcp s = .next t ∧
      pair t.tcph[0] t.tcph[1] = s.tcp.sport.toNat ∧ pair t.tcph[2] t.tcph[3] = s.tcp.dport.toNat ∧
      2 ^ 16 * pair t.tcph[4] t.tcph[5] + pair t.tcph[6] t.tcph[7] = s.tcp.seq.toNat ∧
      2 ^ 16 * pair t.tcph[8] t.tcph[9] + pair t.tcph[10] t.tcph[11] = s.tcp.ack.toNat ∧
      t.tcph[12].toNat = 16 * 5 + s.tcp.rsv.toNat ∧ t.tcph[13] = s.tcp.flags ∧
      pair t.tcph[14] t.tcph[15] = s.tcp.win.toNat ∧
      pair t.tcph[16] t.tcph[17] = (checksum (t.psh.toList ++ insert16 t.tcph.toList 16 0 ++ payload s)).toNat ∧
      pair t.tcph[18] t.tcph[19] = s.tcp.urg.toNat ∧
      2 ^ 16 * pair t.psh[0] t.psh[1] + pair t.psh[2] t.psh[3] = s.ip.src.toNat ∧
      2 ^ 16 * pair t.psh[4] t.psh[5] + pair t.psh[6] t.psh[7] = s.ip.dst.toNat ∧
      t.psh[8] = 0 ∧ t.psh[9] = s.ip.proto ∧ pair t.psh[10] t.psh[11] = 20 + s.plen.toNat ∧
      t.status = { s.status with busy := false, done := true } ∧
      { t with tcph := s.tcph, psh := s.psh, status := s.status, draws := s.draws } = s

/-- R158: after a successful BUILD_TCP the data-offset nibble is 5, PSH carries `20 + PLEN`, and the checksum of PSH, TCPH
and the payload the command read is 0. -/
def Obligations.BuiltTcpHeaderSelfVerifies : Prop :=
  ∀ s t : State, exec .buildTcp s = .next t → s.status.done = false → t.status.done = true →
    t.tcph[12].extractLsb' 4 4 = 5 ∧ pair t.psh[10] t.psh[11] = 20 + s.plen.toNat ∧
    checksum (t.psh.toList ++ t.tcph.toList ++ payload s) = 0

/-- R37, R39: the payload a command reads is PLEN bytes, the `i`-th of them PMEM's byte `i` wherever that byte has been
written since reset. -/
def Obligations.PayloadIsPmem : Prop :=
  ∀ s : State, (payload s).length = s.plen.toNat ∧
    ∀ i b, i < s.plen.toNat → Memory.byteAt s.pmem i = some b → (payload s)[i]? = some b

/-! ### The frame -/

/-- R181, R185: ASM_IP completes where PLEN is at most 65536; FMEM holds IPH and then the payload read, unchanged and
unpadded, every FMEM byte from 20 + PLEN on is as before, FLEN is 20 + PLEN, and nothing else changes but STATUS. -/
def Obligations.AsmIpConcatenates : Prop :=
  ∀ s : State, s.plen.toNat ≤ 65536 →
    ∃ t, exec .asmIp s = .next t ∧ t.flen.toNat = 20 + s.plen.toNat ∧
      (∀ i, i < 20 → Memory.byteAt t.fmem i = s.iph[i]?) ∧
      (∀ i, i < s.plen.toNat → Memory.byteAt t.fmem (20 + i) = (payload s)[i]?) ∧
      (∀ a, 20 + s.plen.toNat ≤ a → Memory.byteAt t.fmem a = Memory.byteAt s.fmem a) ∧
      t.status = { s.status with busy := false, done := true } ∧
      { t with fmem := s.fmem, flen := s.flen, status := s.status, draws := s.draws } = s

/-- R182, R185: ASM_TCP completes where PLEN is at most 65536; FMEM holds IPH, TCPH and then the payload read, unchanged
and unpadded, every FMEM byte from 40 + PLEN on is as before, FLEN is 40 + PLEN, and nothing else changes but STATUS. -/
def Obligations.AsmTcpConcatenates : Prop :=
  ∀ s : State, s.plen.toNat ≤ 65536 →
    ∃ t, exec .asmTcp s = .next t ∧ t.flen.toNat = 40 + s.plen.toNat ∧
      (∀ i, i < 20 → Memory.byteAt t.fmem i = s.iph[i]?) ∧
      (∀ i, i < 20 → Memory.byteAt t.fmem (20 + i) = s.tcph[i]?) ∧
      (∀ i, i < s.plen.toNat → Memory.byteAt t.fmem (40 + i) = (payload s)[i]?) ∧
      (∀ a, 40 + s.plen.toNat ≤ a → Memory.byteAt t.fmem a = Memory.byteAt s.fmem a) ∧
      t.status = { s.status with busy := false, done := true } ∧
      { t with fmem := s.fmem, flen := s.flen, status := s.status, draws := s.draws } = s

/-- R184: when BUILD_IP ran in computed-length mode with the T that matches the assembly, on the same PLEN, the total
length in the frame equals FLEN. -/
def Obligations.ComputedTotalLengthIsFlen : Prop :=
  ∀ (tf : Bool) (s t u v : State), s.ctrl.ipLenMode = true → exec (.buildIp tf) s = .next t →
    s.status.done = false → t.status.done = true → u.iph = t.iph → u.plen = s.plen →
    exec (if tf then .asmTcp else .asmIp) u = .next v →
    ∃ hi lo, Memory.byteAt v.fmem 2 = some hi ∧ Memory.byteAt v.fmem 3 = some lo ∧ pair hi lo = v.flen.toNat

/-! ### The host bus -/

/-- R77, R75: an access to the unmapped range, a register-region access of size other than 4, or a misaligned access is a
bus error: a write is dropped, a read returns 0, BUSERR is set, and nothing else changes, BUSY or not. -/
def Obligations.BusErrorEffect : Prop :=
  ∀ (size : AccessSize) (off : BitVec 18) (v : Word) (s : State),
    ((0x200 ≤ off.toNat ∧ off.toNat < 0x10000) ∨ (off.toNat < 0x200 ∧ size.bytes ≠ 4) ∨
      (off.toNat < 0x30028 ∧ off.toNat % size.bytes ≠ 0)) →
    busAccess (.read size off) s = { s with rdata := 0, status := { s.status with busErr := true } } ∧
    busAccess (.write size off v) s = { s with status := { s.status with busErr := true } }

/-- Beyond FMEM a misaligned access is a bus error with the same effect, BUSY or not. (R75 states the alignment rule of a
register, a PMEM and an FMEM access; that it holds beyond FMEM too is the model's inference, log entry 7.) -/
def Obligations.MisalignedBeyondFmemIsBusError : Prop :=
  ∀ (size : AccessSize) (off : BitVec 18) (v : Word) (s : State),
    0x30028 ≤ off.toNat → off.toNat % size.bytes ≠ 0 →
    busAccess (.read size off) s = { s with rdata := 0, status := { s.status with busErr := true } } ∧
    busAccess (.write size off v) s = { s with status := { s.status with busErr := true } }

/-- R236: while BUSY = 1, a write to any place but STATUS that is no bus error is dropped and sets WRBUSY: no register,
no memory byte and no command changes; a write that is also a bus error sets BUSERR only. -/
def Obligations.WriteWhileBusyIsDropped : Prop :=
  ∀ (size : AccessSize) (off : BitVec 18) (v : Word) (s : State), s.status.busy = true → off ≠ 0x004 →
    ((¬(0x200 ≤ off.toNat ∧ off.toNat < 0x10000) ∧ (off.toNat < 0x200 → size.bytes = 4) ∧
        off.toNat % size.bytes = 0) →
      busAccess (.write size off v) s = { s with status := { s.status with wrBusy := true } }) ∧
    (((0x200 ≤ off.toNat ∧ off.toNat < 0x10000) ∨ (off.toNat < 0x200 ∧ size.bytes ≠ 4) ∨
        (off.toNat < 0x30028 ∧ off.toNat % size.bytes ≠ 0)) →
      busAccess (.write size off v) s = { s with status := { s.status with busErr := true } })

/-- R24, R235: a write of STATUS, BUSY or not, clears BUSERR and WRBUSY where the data bit is 1 and changes nothing
else. -/
def Obligations.StatusWriteClearsStickyBits : Prop :=
  ∀ (v : Word) (s : State), ∃ t, busAccess (.write .word 0x004 v) s = t ∧
    (t.status.busErr = true ↔ s.status.busErr = true ∧ v.getLsbD 3 = false) ∧
    (t.status.wrBusy = true ↔ s.status.wrBusy = true ∧ v.getLsbD 4 = false) ∧
    { t with status := { t.status with busErr := s.status.busErr, wrBusy := s.status.wrBusy } } = s

/-- R32: a CMD write while BUSY = 0 latches the word, sets BUSY and clears DONE, ERR and ERRCODE, and changes nothing
else. (The LATENCY drawn and the draw counter are the model's own.) -/
def Obligations.CmdWriteIssues : Prop :=
  ∀ (v : Word) (s : State), s.status.busy = false →
    ∃ t, busAccess (.write .word 0x008 v) s = t ∧ t.lcmd = v ∧
      t.status = { s.status with busy := true, done := false, err := false, errCode := 0 } ∧
      { t with lcmd := s.lcmd, status := s.status, latency := s.latency, draws := s.draws } = s

/-- R22, R26, R29, R31, R74: for each read-write register, at its offset and with its width: a write while BUSY = 0 puts
the written bits of its field into that register's state, and a read of the offset returns them with 0 above; every other
register's state is as before, and so are the memories, the built headers and STATUS. -/
def Obligations.RegisterWriteReadsBack : Prop :=
  ∀ (o width : Nat) (v : Word) (s : State), s.status.busy = false →
    (o, width) ∈ [(0x000, 2), (0x010, 8), (0x014, 16), (0x018, 16), (0x01C, 16), (0x020, 8), (0x024, 8), (0x028, 16),
      (0x02C, 32), (0x030, 32), (0x040, 16), (0x044, 16), (0x048, 32), (0x04C, 32), (0x050, 4), (0x054, 8), (0x058, 16),
      (0x05C, 16), (0x060, 32), (0x064, 32), (0x068, 32)] →
    ∃ t, busAccess (.write .word (BitVec.ofNat 18 o) v) s = t ∧
      (o, v.toNat % 2 ^ width) ∈ hostRegisters t ∧
      (busAccess (.read .word (BitVec.ofNat 18 o)) t).rdata.toNat = v.toNat % 2 ^ width ∧
      (∀ p ∈ hostRegisters s ++ resultRegisters s, p.1 ≠ o → p ∈ hostRegisters t ++ resultRegisters t) ∧
      t.pmem = s.pmem ∧ t.fmem = s.fmem ∧ t.iph = s.iph ∧ t.tcph = s.tcph ∧ t.psh = s.psh ∧ t.status = s.status

/-- R22, R38, R74: a write, while BUSY = 0, to a read-only register, a header window, a reserved register offset, FMEM or
the range beyond it is ignored without error. -/
def Obligations.ReadOnlyWritesAreIgnored : Prop :=
  ∀ (size : AccessSize) (off : BitVec 18) (v : Word) (s : State), s.status.busy = false →
    off.toNat % size.bytes = 0 →
    ((size = .word ∧ off.toNat ∈ [0x00C, 0x034, 0x038, 0x03C, 0x06C, 0x070, 0x074, 0x078, 0x07C]) ∨
      (size = .word ∧ 0x080 ≤ off.toNat ∧ off.toNat < 0x200) ∨ 0x20000 ≤ off.toNat) →
    busAccess (.write size off v) s = s

/-- R72, R74: a write to PMEM while BUSY = 0 moves the data bytes, the most significant first, to the bytes at its
offset, and no other byte of PMEM and nothing else changes. -/
def Obligations.PmemWriteMovesBytes : Prop :=
  ∀ (size : AccessSize) (off : BitVec 18) (v : Word) (s : State), s.status.busy = false →
    off.toNat % size.bytes = 0 → 0x10000 ≤ off.toNat → off.toNat < 0x20000 →
    ∃ t, busAccess (.write size off v) s = t ∧
      (∀ i, i < size.bytes → ∃ b : Byte, Memory.byteAt t.pmem (off.toNat - 0x10000 + i) = some b ∧
        b.toNat = v.toNat / 256 ^ (size.bytes - 1 - i) % 256) ∧
      (∀ a, (a < off.toNat - 0x10000 ∨ off.toNat - 0x10000 + size.bytes ≤ a) →
        Memory.byteAt t.pmem a = Memory.byteAt s.pmem a) ∧
      { t with pmem := s.pmem } = s

/-- R72: a read of PMEM, or of FMEM while BUSY = 0, returns the bytes at its offset that have been written, the first in
the most significant lane and 0 above the access's bits. -/
def Obligations.MemoryReadIsBigEndian : Prop :=
  ∀ (size : AccessSize) (off : BitVec 18) (s : State) (bs : List Byte) (m : Memory) (base : Nat),
    off.toNat % size.bytes = 0 →
    ((0x10000 ≤ off.toNat ∧ off.toNat < 0x20000 ∧ m = s.pmem ∧ base = 0x10000) ∨
      (s.status.busy = false ∧ 0x20000 ≤ off.toNat ∧ off.toNat < 0x30028 ∧ m = s.fmem ∧ base = 0x20000)) →
    bs.length = size.bytes → (∀ i, i < size.bytes → Memory.byteAt m (off.toNat - base + i) = bs[i]?) →
    (busAccess (.read size off) s).rdata.toNat = bs.foldl (fun n b => 256 * n + b.toNat) 0

/-- R72, R74, R81: while BUSY = 0, the 4-byte reads of the header windows return the built headers' bytes, four to a
word, the first most significant; the reserved register words read 0, BUSY or not, and so does every aligned access
beyond FMEM. -/
def Obligations.WindowsShowBuiltHeaders : Prop :=
  ∀ s : State,
    (s.status.busy = false →
      (∀ j, (h : j < 5) → (busAccess (.read .word (BitVec.ofNat 18 (0x110 + 4 * j))) s).rdata.toNat =
        2 ^ 16 * pair s.iph[4 * j] s.iph[4 * j + 1] + pair s.iph[4 * j + 2] s.iph[4 * j + 3]) ∧
      (∀ j, (h : j < 5) → (busAccess (.read .word (BitVec.ofNat 18 (0x130 + 4 * j))) s).rdata.toNat =
        2 ^ 16 * pair s.tcph[4 * j] s.tcph[4 * j + 1] + pair s.tcph[4 * j + 2] s.tcph[4 * j + 3]) ∧
      (∀ j, (h : j < 3) → (busAccess (.read .word (BitVec.ofNat 18 (0x100 + 4 * j))) s).rdata.toNat =
        2 ^ 16 * pair s.psh[4 * j] s.psh[4 * j + 1] + pair s.psh[4 * j + 2] s.psh[4 * j + 3])) ∧
    (∀ o, o % 4 = 0 → (o ∈ [0x00C, 0x034, 0x038, 0x03C, 0x06C, 0x10C, 0x124, 0x128, 0x12C] ∨ (0x080 ≤ o ∧ o < 0x100) ∨
      (0x144 ≤ o ∧ o < 0x200)) → (busAccess (.read .word (BitVec.ofNat 18 o)) s).rdata = 0) ∧
    (∀ (size : AccessSize) (off : BitVec 18), off.toNat % size.bytes = 0 → 0x30028 ≤ off.toNat →
      (busAccess (.read size off) s).rdata = 0)

/-- R76: a read that is no bus error changes nothing; the data it returns is the host's. (The draw counter is the
model's own.) A read of a register while BUSY = 0 may be repeated and returns the same value. -/
def Obligations.ReadsHaveNoSideEffects : Prop :=
  ∀ (size : AccessSize) (off : BitVec 18) (s : State), busError size off.toNat = false →
    (∃ t, busAccess (.read size off) s = t ∧ { t with rdata := s.rdata, draws := s.draws } = s) ∧
    (s.status.busy = false → off.toNat < 0x200 →
      (busAccess (.read size off) (busAccess (.read size off) s)).rdata = (busAccess (.read size off) s).rdata)

/-- R81, R74, R25: a read at the offset of CTRL, STATUS, CMD or a field or operand register returns that register's
value, BUSY or not; while BUSY = 0 a read at the offset of CS_ACC, CS_PEND, CS_RESULT or FLEN returns its value. -/
def Obligations.RegisterReadsReturnTheirValue : Prop :=
  ∀ (o n : Nat) (s : State),
    ((o, n) ∈ hostRegisters s ∨ (s.status.busy = false ∧ (o, n) ∈ resultRegisters s)) →
    (busAccess (.read .word (BitVec.ofNat 18 o)) s).rdata.toNat = n ∧
    (busAccess (.read .word (BitVec.ofNat 18 o)) s).status = s.status

/-- R24, R34: what a read of STATUS and of CS_PEND returns, bit by bit; and R25, R34, R36: which state a read of CMD,
CS_ACC, CS_RESULT and FLEN returns. -/
def Obligations.StatusWordLayout : Prop :=
  ∀ s : State,
    (readReg .status s).toNat = s.status.busy.toNat + 2 * s.status.done.toNat + 4 * s.status.err.toNat +
      8 * s.status.busErr.toNat + 16 * s.status.wrBusy.toNat + 256 * s.status.errCode.toNat ∧
    (readReg .csPend s).toNat = 256 * s.cs.pendV.toNat + s.cs.pendB.toNat ∧
    readReg .cmd s = s.lcmd ∧ readReg .csAcc s = s.cs.acc ∧ (readReg .csResult s).toNat = s.csResult.toNat ∧
    readReg .flen s = s.flen

/-! ### Host programs -/

/-- R96, R97: the host's `run X` with reset released and the engine idle writes X's command word to CMD: the engine is then busy with LCMD
that word, which decodes to X, and `poll` is what the host does next. -/
def Obligations.RunIssuesItsCommand : Prop :=
  ∀ (i : Instr) (s : State) (rest : List HostEvent), s.status.errCode.toNat ≤ 3 → s.resetAsserted = false →
    s.status.busy = false → s.host = (HostOp.run i).events ++ rest →
    ∃ t, step s = .next t ∧ t.lcmd = encode i ∧ decode t.lcmd = .ok i ∧ t.status.busy = true ∧
      t.host = .poll :: rest

/-- R97: with reset released, in the host's turn, `poll` reads STATUS; it goes on while BUSY read 1 and is over once BUSY read 0. Nothing else
changes. (The latency count and the draw counter are the model's own: log entries 5 and 2.) -/
def Obligations.PollRepeatsUntilIdle : Prop :=
  ∀ (s : State) (rest : List HostEvent), s.status.errCode.toNat ≤ 3 → s.resetAsserted = false → s.host = .poll :: rest →
    (s.status.busy = true → 0 < s.latency) →
    ∃ t, step s = .next t ∧ t.rdata = readReg .status s ∧
      t.host = (if s.status.busy then .poll :: rest else rest) ∧
      { t with rdata := s.rdata, host := s.host, latency := s.latency, draws := s.draws } = s
end

