-- ==== Sys2Proof/Laws/Checksum.lean ====
section
/-! SUPPORT. The small facts of the checksum arithmetic: the fold's pass and the end-around carry as division and
remainder, how words concatenate, and the accumulator fed in parts. -/

namespace Sys2Proof.Machine

/-- A pass of the fold, as quotient and remainder by 2^16 (R102). -/
theorem foldOnce_eq (x : Nat) : foldOnce x = x % 65536 + x / 65536 := by
  have h : x &&& 65535 = x % 65536 := Nat.and_two_pow_sub_one_eq_mod x 16
  simp only [foldOnce, h, Nat.shiftRight_eq_div_pow]

/-- A pass lowers a value that does not fit in 16 bits. -/
theorem foldOnce_lt (x : Nat) (h : 0xFFFF < x) : foldOnce x < x := by
  rw [foldOnce_eq]; omega

/-- A pass keeps the residue modulo 0xFFFF, since 2^16 is 1 modulo 0xFFFF. -/
theorem foldOnce_mod (x : Nat) : foldOnce x % 65535 = x % 65535 := by
  rw [foldOnce_eq]; omega

/-- The end-around carry, as quotient and remainder by 2^32 (R101). -/
theorem ocadd_eq (a : Word) (w : Nat) :
    ocadd a w = BitVec.ofNat 32 ((a.toNat + w) % 2 ^ 32 + (a.toNat + w) / 2 ^ 32) := by
  have h : (a.toNat + w) &&& 4294967295 = (a.toNat + w) % 4294967296 :=
    Nat.and_two_pow_sub_one_eq_mod _ 32
  simp only [ocadd, h, Nat.shiftRight_eq_div_pow, show (2 : Nat) ^ 32 = 4294967296 from rfl]

/-- The words of a stream of even length come before those of what follows it (R71). -/
theorem words_append (s t : List Byte) (h : s.length % 2 = 0) : words (s ++ t) = words s ++ words t := by
  induction s using words.induct with
  | case1 => rfl
  | case2 b => simp at h
  | case3 b c rest ih =>
    simp only [List.length_cons] at h
    simp [words, ih (by omega)]

/-- A word fits in 16 bits (R100). -/
theorem words_le (s : List Byte) : ∀ w ∈ words s, w ≤ 0xFFFF := by
  induction s using words.induct with
  | case1 => simp [words]
  | case2 b =>
    have := b.isLt
    simp only [words, List.mem_singleton]
    rintro w rfl
    omega
  | case3 b c rest ih =>
    have := b.isLt
    have := c.isLt
    simp only [words, List.mem_cons]
    rintro w (rfl | hw)
    · omega
    · exact ih w hw

@[simp] theorem Accum.addBytes_nil (a : Accum) : a.addBytes [] = a := rfl

@[simp] theorem Accum.addBytes_cons (a : Accum) (b : Byte) (bs : List Byte) :
    a.addBytes (b :: bs) = (a.addByte b).addBytes bs := rfl

/-- Feeding two ranges is feeding their concatenation (R106). -/
theorem Accum.addBytes_append (a : Accum) (s t : List Byte) :
    a.addBytes (s ++ t) = (a.addBytes s).addBytes t := by
  simp [Accum.addBytes]

/-- Two bytes fed with none held accumulate their word and hold nothing (R112). -/
theorem Accum.addByte_pair (a : Accum) (b c : Byte) (h : a.pendV = false) :
    (a.addByte b).addByte c =
      { acc := ocadd a.acc (256 * b.toNat + c.toNat), pendV := false, pendB := 0 } := by
  simp [Accum.addByte, h]

end Sys2Proof.Machine
end

