-- ==== Sys2Proof/Laws/Memory.lean ====
section
/-! SUPPORT. What reading and writing a byte memory do: the bytes a write leaves, the canonical form it keeps, and the
bytes a read returns. -/

namespace Sys2Proof.Machine

@[simp] theorem Memory.byteAt_nil (a : Nat) : Memory.byteAt [] a = none := rfl

@[simp] theorem Memory.read_length (m : Memory) (a n k : Nat) : (Memory.read m a n k).length = n := by
  simp [Memory.read]

/-- The `i`-th byte of a read: what is written at `a + i`, or the draw `k + i` (R39). -/
theorem Memory.read_get (m : Memory) (a n k i : Nat) (h : i < n) :
    (Memory.read m a n k)[i]? = some ((Memory.byteAt m (a + i)).getD (Config.freeByte (k + i))) := by
  simp [Memory.read, h]

/-- Cells at an address hold their bytes in order, and nothing elsewhere. -/
theorem Memory.byteAt_cells (bs : List Byte) (a x : Nat) :
    Memory.byteAt (Memory.cells a bs) x = if a ≤ x then bs[x - a]? else none := by
  induction bs generalizing a with
  | nil => simp [Memory.cells]
  | cons b bs ih =>
    simp only [Memory.cells, Memory.byteAt, ih]
    by_cases h : a = x
    · subst h; simp
    · by_cases h2 : a ≤ x
      · have h3 : x - a = (x - (a + 1)) + 1 := by omega
        rw [h3]
        simp [h, h2, show a + 1 ≤ x by omega]
      · simp [h, h2, show ¬ a + 1 ≤ x by omega]

/-- In a joined memory the first part that lists an address gives its byte. -/
theorem Memory.byteAt_append (m n : Memory) (x : Nat) :
    Memory.byteAt (m ++ n) x = (Memory.byteAt m x).or (Memory.byteAt n x) := by
  induction m with
  | nil => simp
  | cons c m ih =>
    obtain ⟨k, b⟩ := c
    simp only [List.cons_append, Memory.byteAt]
    split <;> simp [ih]

/-- Filtering a memory by address keeps exactly the bytes at the addresses that pass. -/
theorem Memory.byteAt_filter (m : Memory) (p : Nat → Bool) (x : Nat) :
    Memory.byteAt (m.filter fun c => p c.1) x = if p x then Memory.byteAt m x else none := by
  induction m with
  | nil => simp
  | cons c m ih =>
    obtain ⟨k, b⟩ := c
    simp only [List.filter_cons, Memory.byteAt]
    by_cases hk : k = x
    · subst hk; by_cases hp : p k <;> simp_all [Memory.byteAt]
    · split <;> simp_all [Memory.byteAt]

/-- The byte at any address after a write: the byte written there, or the byte before (R11). -/
theorem Memory.byteAt_write (m : Memory) (a : Nat) (bs : List Byte) (x : Nat) :
    Memory.byteAt (Memory.write m a bs) x =
      if a ≤ x ∧ x < a + bs.length then bs[x - a]? else Memory.byteAt m x := by
  have h1 := Memory.byteAt_filter m (fun k => decide (k < a)) x
  have h2 := Memory.byteAt_filter m (fun k => decide (a + bs.length ≤ k)) x
  simp only [decide_eq_true_eq] at h1 h2
  rw [Memory.write, Memory.byteAt_append, Memory.byteAt_append, Memory.byteAt_cells, h1, h2]
  by_cases hlo : x < a
  · simp [hlo, show ¬ a ≤ x by omega, show ¬ a + bs.length ≤ x by omega]
  · by_cases hhi : a + bs.length ≤ x
    · simp [hlo, hhi, show a ≤ x by omega, show bs.length ≤ x - a by omega, show ¬ x < a + bs.length by omega]
    · simp [hlo, hhi, show a ≤ x by omega, show x - a < bs.length by omega, show x < a + bs.length by omega]

/-- Cells lie inside the range they are put at. -/
theorem Memory.mem_cells (bs : List Byte) (a : Nat) (c : Host.Cell) (h : c ∈ Memory.cells a bs) :
    a ≤ c.1 ∧ c.1 < a + bs.length := by
  induction bs generalizing a with
  | nil => simp [Memory.cells] at h
  | cons b bs ih =>
    simp only [Memory.cells, List.mem_cons] at h
    rcases h with rfl | h
    · simp
    · have := ih _ h
      simp only [List.length_cons]
      omega

/-- Cells rise strictly. -/
theorem Memory.cells_rising (bs : List Byte) (a : Nat) :
    (Memory.cells a bs).Pairwise (fun x y => x.1 < y.1) := by
  induction bs generalizing a with
  | nil => simp [Memory.cells]
  | cons b bs ih =>
    simp only [Memory.cells, List.pairwise_cons]
    refine ⟨fun c hc => ?_, ih _⟩
    have := Memory.mem_cells _ _ _ hc
    show a < c.1
    omega

/-- A memory with nothing written is in canonical form. -/
theorem Memory.nil_wf (size : Nat) : Memory.wf size [] := by simp [Memory.wf]

/-- A write inside a memory keeps its canonical form. -/
theorem Memory.write_wf (size : Nat) (m : Memory) (a : Nat) (bs : List Byte) (h : Memory.wf size m)
    (hb : a + bs.length ≤ size) : Memory.wf size (Memory.write m a bs) := by
  obtain ⟨hp, hs⟩ := h
  refine ⟨?_, fun c hc => ?_⟩
  · rw [Memory.write, List.pairwise_append, List.pairwise_append]
    refine ⟨⟨hp.filter _, Memory.cells_rising _ _, fun x hx y hy => ?_⟩, hp.filter _, fun x hx y hy => ?_⟩
    · have := Memory.mem_cells _ _ _ hy
      simp only [List.mem_filter, decide_eq_true_eq] at hx
      omega
    · simp only [List.mem_append, List.mem_filter, decide_eq_true_eq] at hx hy
      rcases hx with hx | hx
      · omega
      · have := Memory.mem_cells _ _ _ hx
        omega
  · simp only [Memory.write, List.mem_append, List.mem_filter] at hc
    rcases hc with (hc | hc) | hc
    · exact hs _ hc.1
    · have := Memory.mem_cells _ _ _ hc
      omega
    · exact hs _ hc.1

end Sys2Proof.Machine
end

