-- ==== Sys2Proof/Laws/Operands.lean ====
section
/-! SUPPORT. What each check says on plain numbers, how long what a command reads is, and what whose-turn tests say. -/

namespace Sys2Proof.Machine

@[simp] theorem rangeBad_iff (src : Src) (s : State) :
    rangeBad src s = true ↔ srcSize src < s.csOff.toNat + s.csLen.toNat := by simp [rangeBad]

@[simp] theorem payloadBad_iff (s : State) : payloadBad s = true ↔ 65536 < s.plen.toNat :=
  decide_eq_true_iff

@[simp] theorem tooLarge_iff (n : Nat) : tooLarge n = true ↔ 0xFFFF < n := by simp [tooLarge]

@[simp] theorem segmentLength_eq (s : State) : segmentLength s = 20 + s.plen.toNat := rfl

@[simp] theorem computedLength_eq (t : Bool) (s : State) :
    computedLength t s = 20 + 20 * t.toNat + s.plen.toNat := by cases t <;> rfl

@[simp] theorem reservedCode_iff (s : State) : reservedCode s = true ↔ 3 < s.status.errCode.toNat := by
  simp [reservedCode]

@[simp] theorem engineTurn_iff (s : State) :
    engineTurn s = true ↔ s.status.busy = true ∧ (s.latency = 0 ∨ s.host = []) := by
  simp [engineTurn]

/-- The payload is PLEN bytes (R37). -/
@[simp] theorem payload_length (s : State) : (payload s).length = s.plen.toNat := by simp [payload]

/-- A frame is its headers and PLEN bytes (R180). -/
@[simp] theorem frameBytes_length (hs : List Byte) (s : State) :
    (frameBytes hs s).length = hs.length + s.plen.toNat := by simp [frameBytes]

/-- A legal checksum range is CS_LEN bytes (R112). -/
theorem rangeBytes_length (src : Src) (s : State) (h : rangeBad src s = false) :
    (rangeBytes src s).length = s.csLen.toNat := by
  have hr : ¬ srcSize src < s.csOff.toNat + s.csLen.toNat := by
    rw [← rangeBad_iff]; simp [h]
  cases src <;> simp only [rangeBytes, srcRead, srcSize, Memory.read_length, List.length_take, List.length_drop,
    Vector.length_toList] at * <;> omega

/-- `be16` puts the most significant byte first (R10). -/
theorem be16_toNat (v : Half) : 256 * (v.extractLsb' 8 8).toNat + (v.extractLsb' 0 8).toNat = v.toNat := by
  have := v.isLt
  simp only [BitVec.extractLsb'_toNat, Nat.shiftRight_eq_div_pow]
  omega

/-- `be32` puts the most significant byte first (R10). -/
theorem be32_toNat (v : Word) :
    2 ^ 16 * (256 * (v.extractLsb' 24 8).toNat + (v.extractLsb' 16 8).toNat) +
      (256 * (v.extractLsb' 8 8).toNat + (v.extractLsb' 0 8).toNat) = v.toNat := by
  have := v.isLt
  simp only [BitVec.extractLsb'_toNat, Nat.shiftRight_eq_div_pow]
  omega

end Sys2Proof.Machine
end

