-- ==== Sys2Proof/Laws/PerInstr.lean ====
section
/-! SUPPORT. For every command: the fields of its encoding are legal by R92 (family `EncodesLegal`). -/

namespace Sys2Proof.Laws.EncodesLegal

/-- A command's fields pass R92's `legal`, which is written apart from the encoder. -/
def Statement (i : Instr) : Prop := i.fields.wellFormed = true

theorem nop : Statement .nop := rfl
theorem accClear : Statement .accClear := rfl
theorem accAdd (src : Src) : Statement (.accAdd src) := by cases src <;> rfl
theorem accFinal : Statement .accFinal := rfl
theorem csum (src : Src) : Statement (.csum src) := by cases src <;> rfl
theorem buildIp (t : Bool) : Statement (.buildIp t) := by cases t <;> rfl
theorem buildPseudo : Statement .buildPseudo := rfl
theorem buildTcp : Statement .buildTcp := rfl
theorem asmIp : Statement .asmIp := rfl
theorem asmTcp : Statement .asmTcp := rfl

end Sys2Proof.Laws.EncodesLegal
end

