-- ==== Sys2Proof/Laws/State.lean ====
section
/-! SUPPORT. One lemma per field per shared update of State: what `finish`, `raise`, `latch` and `issue` leave in each
field; and the whole effect of each command's writes as one equation on the fields they leave alone. -/

namespace Sys2Proof.Machine

@[simp] theorem finish_ctrl (s : State) : (finish s).ctrl = s.ctrl := rfl
@[simp] theorem finish_status (s : State) : (finish s).status = s.status.finished := rfl
@[simp] theorem finish_lcmd (s : State) : (finish s).lcmd = s.lcmd := rfl
@[simp] theorem finish_ip (s : State) : (finish s).ip = s.ip := rfl
@[simp] theorem finish_tcp (s : State) : (finish s).tcp = s.tcp := rfl
@[simp] theorem finish_plen (s : State) : (finish s).plen = s.plen := rfl
@[simp] theorem finish_csOff (s : State) : (finish s).csOff = s.csOff := rfl
@[simp] theorem finish_csLen (s : State) : (finish s).csLen = s.csLen := rfl
@[simp] theorem finish_cs (s : State) : (finish s).cs = s.cs := rfl
@[simp] theorem finish_csResult (s : State) : (finish s).csResult = s.csResult := rfl
@[simp] theorem finish_iph (s : State) : (finish s).iph = s.iph := rfl
@[simp] theorem finish_tcph (s : State) : (finish s).tcph = s.tcph := rfl
@[simp] theorem finish_psh (s : State) : (finish s).psh = s.psh := rfl
@[simp] theorem finish_flen (s : State) : (finish s).flen = s.flen := rfl
@[simp] theorem finish_pmem (s : State) : (finish s).pmem = s.pmem := rfl
@[simp] theorem finish_fmem (s : State) : (finish s).fmem = s.fmem := rfl
@[simp] theorem finish_resetAsserted (s : State) : (finish s).resetAsserted = s.resetAsserted := rfl
@[simp] theorem finish_host (s : State) : (finish s).host = s.host := rfl
@[simp] theorem finish_latency (s : State) : (finish s).latency = s.latency := rfl
@[simp] theorem finish_draws (s : State) : (finish s).draws = s.draws := rfl
@[simp] theorem finish_rdata (s : State) : (finish s).rdata = s.rdata := rfl

@[simp] theorem raise_ctrl (c : CmdError) (s : State) : (raise c s).ctrl = s.ctrl := rfl
@[simp] theorem raise_status (c : CmdError) (s : State) : (raise c s).status = s.status.failed c := rfl
@[simp] theorem raise_lcmd (c : CmdError) (s : State) : (raise c s).lcmd = s.lcmd := rfl
@[simp] theorem raise_ip (c : CmdError) (s : State) : (raise c s).ip = s.ip := rfl
@[simp] theorem raise_tcp (c : CmdError) (s : State) : (raise c s).tcp = s.tcp := rfl
@[simp] theorem raise_plen (c : CmdError) (s : State) : (raise c s).plen = s.plen := rfl
@[simp] theorem raise_csOff (c : CmdError) (s : State) : (raise c s).csOff = s.csOff := rfl
@[simp] theorem raise_csLen (c : CmdError) (s : State) : (raise c s).csLen = s.csLen := rfl
@[simp] theorem raise_cs (c : CmdError) (s : State) : (raise c s).cs = s.cs := rfl
@[simp] theorem raise_csResult (c : CmdError) (s : State) : (raise c s).csResult = s.csResult := rfl
@[simp] theorem raise_iph (c : CmdError) (s : State) : (raise c s).iph = s.iph := rfl
@[simp] theorem raise_tcph (c : CmdError) (s : State) : (raise c s).tcph = s.tcph := rfl
@[simp] theorem raise_psh (c : CmdError) (s : State) : (raise c s).psh = s.psh := rfl
@[simp] theorem raise_flen (c : CmdError) (s : State) : (raise c s).flen = s.flen := rfl
@[simp] theorem raise_pmem (c : CmdError) (s : State) : (raise c s).pmem = s.pmem := rfl
@[simp] theorem raise_fmem (c : CmdError) (s : State) : (raise c s).fmem = s.fmem := rfl
@[simp] theorem raise_resetAsserted (c : CmdError) (s : State) : (raise c s).resetAsserted = s.resetAsserted := rfl
@[simp] theorem raise_host (c : CmdError) (s : State) : (raise c s).host = s.host := rfl
@[simp] theorem raise_latency (c : CmdError) (s : State) : (raise c s).latency = s.latency := rfl
@[simp] theorem raise_draws (c : CmdError) (s : State) : (raise c s).draws = s.draws := rfl
@[simp] theorem raise_rdata (c : CmdError) (s : State) : (raise c s).rdata = s.rdata := rfl

@[simp] theorem latch_ctrl (w : Word) (s : State) : (latch w s).ctrl = s.ctrl := rfl
@[simp] theorem latch_status (w : Word) (s : State) : (latch w s).status = s.status.issued := rfl
@[simp] theorem latch_lcmd (w : Word) (s : State) : (latch w s).lcmd = w := rfl
@[simp] theorem latch_ip (w : Word) (s : State) : (latch w s).ip = s.ip := rfl
@[simp] theorem latch_tcp (w : Word) (s : State) : (latch w s).tcp = s.tcp := rfl
@[simp] theorem latch_plen (w : Word) (s : State) : (latch w s).plen = s.plen := rfl
@[simp] theorem latch_csOff (w : Word) (s : State) : (latch w s).csOff = s.csOff := rfl
@[simp] theorem latch_csLen (w : Word) (s : State) : (latch w s).csLen = s.csLen := rfl
@[simp] theorem latch_cs (w : Word) (s : State) : (latch w s).cs = s.cs := rfl
@[simp] theorem latch_csResult (w : Word) (s : State) : (latch w s).csResult = s.csResult := rfl
@[simp] theorem latch_iph (w : Word) (s : State) : (latch w s).iph = s.iph := rfl
@[simp] theorem latch_tcph (w : Word) (s : State) : (latch w s).tcph = s.tcph := rfl
@[simp] theorem latch_psh (w : Word) (s : State) : (latch w s).psh = s.psh := rfl
@[simp] theorem latch_flen (w : Word) (s : State) : (latch w s).flen = s.flen := rfl
@[simp] theorem latch_pmem (w : Word) (s : State) : (latch w s).pmem = s.pmem := rfl
@[simp] theorem latch_fmem (w : Word) (s : State) : (latch w s).fmem = s.fmem := rfl
@[simp] theorem latch_resetAsserted (w : Word) (s : State) : (latch w s).resetAsserted = s.resetAsserted := rfl
@[simp] theorem latch_host (w : Word) (s : State) : (latch w s).host = s.host := rfl
@[simp] theorem latch_latency (w : Word) (s : State) : (latch w s).latency = s.latency := rfl
@[simp] theorem latch_draws (w : Word) (s : State) : (latch w s).draws = s.draws := rfl
@[simp] theorem latch_rdata (w : Word) (s : State) : (latch w s).rdata = s.rdata := rfl

@[simp] theorem issue_ctrl (w : Word) (s : State) : (issue w s).ctrl = s.ctrl := rfl
@[simp] theorem issue_status (w : Word) (s : State) : (issue w s).status = s.status.issued := rfl
@[simp] theorem issue_lcmd (w : Word) (s : State) : (issue w s).lcmd = w := rfl
@[simp] theorem issue_ip (w : Word) (s : State) : (issue w s).ip = s.ip := rfl
@[simp] theorem issue_tcp (w : Word) (s : State) : (issue w s).tcp = s.tcp := rfl
@[simp] theorem issue_plen (w : Word) (s : State) : (issue w s).plen = s.plen := rfl
@[simp] theorem issue_csOff (w : Word) (s : State) : (issue w s).csOff = s.csOff := rfl
@[simp] theorem issue_csLen (w : Word) (s : State) : (issue w s).csLen = s.csLen := rfl
@[simp] theorem issue_cs (w : Word) (s : State) : (issue w s).cs = s.cs := rfl
@[simp] theorem issue_csResult (w : Word) (s : State) : (issue w s).csResult = s.csResult := rfl
@[simp] theorem issue_iph (w : Word) (s : State) : (issue w s).iph = s.iph := rfl
@[simp] theorem issue_tcph (w : Word) (s : State) : (issue w s).tcph = s.tcph := rfl
@[simp] theorem issue_psh (w : Word) (s : State) : (issue w s).psh = s.psh := rfl
@[simp] theorem issue_flen (w : Word) (s : State) : (issue w s).flen = s.flen := rfl
@[simp] theorem issue_pmem (w : Word) (s : State) : (issue w s).pmem = s.pmem := rfl
@[simp] theorem issue_fmem (w : Word) (s : State) : (issue w s).fmem = s.fmem := rfl
@[simp] theorem issue_resetAsserted (w : Word) (s : State) : (issue w s).resetAsserted = s.resetAsserted := rfl
@[simp] theorem issue_host (w : Word) (s : State) : (issue w s).host = s.host := rfl
@[simp] theorem issue_latency (w : Word) (s : State) : (issue w s).latency = Config.latency s.draws := rfl
@[simp] theorem issue_draws (w : Word) (s : State) : (issue w s).draws = s.draws + 1 := rfl
@[simp] theorem issue_rdata (w : Word) (s : State) : (issue w s).rdata = s.rdata := rfl

@[simp] theorem Status.finished_busy (st : Status) : st.finished.busy = false := rfl
@[simp] theorem Status.finished_done (st : Status) : st.finished.done = true := rfl
@[simp] theorem Status.finished_err (st : Status) : st.finished.err = st.err := rfl
@[simp] theorem Status.finished_busErr (st : Status) : st.finished.busErr = st.busErr := rfl
@[simp] theorem Status.finished_wrBusy (st : Status) : st.finished.wrBusy = st.wrBusy := rfl
@[simp] theorem Status.finished_errCode (st : Status) : st.finished.errCode = st.errCode := rfl

@[simp] theorem Status.failed_busy (c : CmdError) (st : Status) : (st.failed c).busy = false := rfl
@[simp] theorem Status.failed_done (c : CmdError) (st : Status) : (st.failed c).done = st.done := rfl
@[simp] theorem Status.failed_err (c : CmdError) (st : Status) : (st.failed c).err = true := rfl
@[simp] theorem Status.failed_busErr (c : CmdError) (st : Status) : (st.failed c).busErr = st.busErr := rfl
@[simp] theorem Status.failed_wrBusy (c : CmdError) (st : Status) : (st.failed c).wrBusy = st.wrBusy := rfl
@[simp] theorem Status.failed_errCode (c : CmdError) (st : Status) : (st.failed c).errCode = c.code := rfl

@[simp] theorem Status.issued_busy (st : Status) : st.issued.busy = true := rfl
@[simp] theorem Status.issued_done (st : Status) : st.issued.done = false := rfl
@[simp] theorem Status.issued_err (st : Status) : st.issued.err = false := rfl
@[simp] theorem Status.issued_busErr (st : Status) : st.issued.busErr = st.busErr := rfl
@[simp] theorem Status.issued_wrBusy (st : Status) : st.issued.wrBusy = st.wrBusy := rfl
@[simp] theorem Status.issued_errCode (st : Status) : st.issued.errCode = 0 := rfl

@[simp] theorem Status.markBusErr_busy (st : Status) : st.markBusErr.busy = st.busy := rfl
@[simp] theorem Status.markBusErr_done (st : Status) : st.markBusErr.done = st.done := rfl
@[simp] theorem Status.markBusErr_err (st : Status) : st.markBusErr.err = st.err := rfl
@[simp] theorem Status.markBusErr_busErr (st : Status) : st.markBusErr.busErr = true := rfl
@[simp] theorem Status.markBusErr_wrBusy (st : Status) : st.markBusErr.wrBusy = st.wrBusy := rfl
@[simp] theorem Status.markBusErr_errCode (st : Status) : st.markBusErr.errCode = st.errCode := rfl

@[simp] theorem Status.markWrBusy_busy (st : Status) : st.markWrBusy.busy = st.busy := rfl
@[simp] theorem Status.markWrBusy_done (st : Status) : st.markWrBusy.done = st.done := rfl
@[simp] theorem Status.markWrBusy_err (st : Status) : st.markWrBusy.err = st.err := rfl
@[simp] theorem Status.markWrBusy_busErr (st : Status) : st.markWrBusy.busErr = st.busErr := rfl
@[simp] theorem Status.markWrBusy_wrBusy (st : Status) : st.markWrBusy.wrBusy = true := rfl
@[simp] theorem Status.markWrBusy_errCode (st : Status) : st.markWrBusy.errCode = st.errCode := rfl

@[simp] theorem Status.written_busy (data : Word) (st : Status) : (st.written data).busy = st.busy := rfl
@[simp] theorem Status.written_done (data : Word) (st : Status) : (st.written data).done = st.done := rfl
@[simp] theorem Status.written_err (data : Word) (st : Status) : (st.written data).err = st.err := rfl
@[simp] theorem Status.written_busErr (data : Word) (st : Status) : (st.written data).busErr = (st.busErr && !data.getLsbD 3) := rfl
@[simp] theorem Status.written_wrBusy (data : Word) (st : Status) : (st.written data).wrBusy = (st.wrBusy && !data.getLsbD 4) := rfl
@[simp] theorem Status.written_errCode (data : Word) (st : Status) : (st.written data).errCode = st.errCode := rfl

@[simp] theorem inReset_resetAsserted (s : State) : (inReset s).resetAsserted = true := rfl
@[simp] theorem inReset_host (s : State) : (inReset s).host = s.host := rfl
@[simp] theorem inReset_draws (s : State) : (inReset s).draws = s.draws := rfl
@[simp] theorem inReset_rdata (s : State) : (inReset s).rdata = s.rdata := rfl
@[simp] theorem inReset_status (s : State) : (inReset s).status = Status.reset := rfl

/-- Holding a state in reset twice is holding it once (R230). -/
@[simp] theorem inReset_inReset (s : State) : inReset (inReset s) = inReset s := rfl

/-- ACC_ADD's body writes the accumulator only (R112). -/
theorem accumulate_frame (src : Src) (s : State) :
    { accumulate src s with cs := s.cs, draws := s.draws } = s := rfl

/-- BUILD_IP's write is IPH only (R133). -/
theorem writeIpHeader_frame (tl : Half) (s : State) : { writeIpHeader tl s with iph := s.iph } = s := rfl

/-- BUILD_PSEUDO's write is PSH only (R152). -/
theorem writePseudo_frame (s : State) : { writePseudo s with psh := s.psh } = s := rfl

/-- BUILD_TCP's second write is TCPH only (R157). -/
theorem writeTcpHeader_frame (s : State) : { writeTcpHeader s with tcph := s.tcph, draws := s.draws } = s := rfl

/-- The assemble commands write FMEM and FLEN only (R181, R182). -/
theorem writeFrame_frame (hs : List Byte) (s : State) :
    { writeFrame hs s with fmem := s.fmem, flen := s.flen, draws := s.draws } = s := rfl

/-- The bytes IPH holds after BUILD_IP's write (R133). -/
@[simp] theorem writeIpHeader_iph_toList (tl : Half) (s : State) :
    (writeIpHeader tl s).iph.toList = ipHeaderBytes s tl (ipChecksum s tl) := rfl

/-- The bytes PSH holds after the pseudo-header is written (R152). -/
@[simp] theorem writePseudo_psh_toList (s : State) : (writePseudo s).psh.toList = pseudoBytes s := rfl

/-- The bytes TCPH holds after BUILD_TCP's write (R157). -/
@[simp] theorem writeTcpHeader_tcph_toList (s : State) :
    (writeTcpHeader s).tcph.toList = tcpHeaderBytes s (tcpChecksum s) := rfl

end Sys2Proof.Machine
end

