-- ==== Sys2Proof/Laws/Step.lean ====
section
/-! SUPPORT. What a step can do, once: every meaning answers a next state and is one of a few shared updates; a host
access is one of five cases; a step is held in reset, the engine's, or the host's. -/

namespace Sys2Proof.Machine

/-- Every command answers a next state, which is a success or an error of the same state. -/
theorem exec_answers_next (i : Instr) (s : State) : ∃ t, exec i s = .next t := by
  cases i <;> simp only [exec, execNop, execAccClear, execAccAdd, execAccFinal, execCsum, execBuildIp, execBuildPseudo,
    execBuildTcp, execAsmIp, execAsmTcp] <;> (repeat' split) <;> exact ⟨_, rfl⟩

/-- A command that answers `t` has raised an error and written STATUS only, or has written its results and finished.
The written state keeps STATUS as it was. -/
theorem exec_cases (i : Instr) (s t : State) (h : exec i s = .next t) :
    (∃ c, t = raise c s) ∨ ∃ u, t = finish u ∧ u.status = s.status := by
  cases i <;> simp only [exec, execNop, execAccClear, execAccAdd, execAccFinal, execCsum, execBuildIp, execBuildPseudo,
    execBuildTcp, execAsmIp, execAsmTcp] at h <;> (repeat' split at h) <;>
    first
      | exact .inl ⟨_, (Host.Outcome.next.inj h).symm⟩
      | exact .inr ⟨_, (Host.Outcome.next.inj h).symm, rfl⟩

/-- The register at a register's offset is that register: no two registers share an offset (R74). -/
@[simp] theorem regAt_offset (r : Reg) : regAt r.offset = some r := by cases r <;> rfl

/-- An offset that names a register is that register's offset (R74). -/
theorem offset_of_regAt (o : Nat) (r : Reg) (h : regAt o = some r) : r.offset = o := by
  have := List.find?_some h
  simpa using this

/-- A host read changes the host's data, BUSERR and the draw counter, and nothing else (R76, R77). -/
theorem busAccess_read_cases (size : AccessSize) (off : BitVec 18) (s : State) :
    (busError size off.toNat = true ∧
      busAccess (.read size off) s = { s with rdata := 0, status := s.status.markBusErr }) ∨
    (busError size off.toNat = false ∧
      busAccess (.read size off) s =
        { s with rdata := (busRead size off.toNat s).1, draws := s.draws + (busRead size off.toNat s).2 }) := by
  cases h : busError size off.toNat <;> simp [busAccess, h]

/-- A host write is a bus error, is dropped, or takes its place (R77, R236). -/
theorem busAccess_write_cases (size : AccessSize) (off : BitVec 18) (v : Word) (s : State) :
    (busError size off.toNat = true ∧
      busAccess (.write size off v) s = { s with status := s.status.markBusErr }) ∨
    (busError size off.toNat = false ∧ s.status.busy = true ∧ off.toNat ≠ 4 ∧
      busAccess (.write size off v) s = { s with status := s.status.markWrBusy }) ∨
    (busError size off.toNat = false ∧ (s.status.busy = false ∨ off.toNat = 4) ∧
      busAccess (.write size off v) s = busWrite size off.toNat v s) := by
  have h4 : Reg.status.offset = 4 := rfl
  cases h : busError size off.toNat <;> simp only [busAccess, h, h4] <;> simp
  by_cases hb : s.status.busy = true <;> by_cases ho : off.toNat = 4 <;> simp [hb, ho]

/-- A write that takes its place writes a register, writes PMEM, or is ignored (R74). -/
theorem busWrite_cases (size : AccessSize) (o : Nat) (v : Word) (s : State) :
    (∃ r, regAt o = some r ∧ o < 0x200 ∧ busWrite size o v s = writeReg r v s) ∨
    (0x200 ≤ o ∧ o < 0x20000 ∧
      busWrite size o v s = { s with pmem := Memory.write s.pmem (o - 0x10000) (laneBytes size v) }) ∨
    busWrite size o v s = s := by
  simp only [busWrite]
  split
  · cases h : regAt o with
    | none => simp
    | some r => exact .inl ⟨r, rfl, by omega, rfl⟩
  · split
    · exact .inr (.inl ⟨by omega, by omega, rfl⟩)
    · exact .inr (.inr rfl)

/-- No host access moves the reset input or the host's coming events (R20, R230). -/
@[simp] theorem busAccess_outside (a : Access) (s : State) :
    (busAccess a s).resetAsserted = s.resetAsserted ∧ (busAccess a s).host = s.host := by
  cases a with
  | read size off =>
    obtain ⟨-, e⟩ | ⟨-, e⟩ := busAccess_read_cases size off s <;> simp [e]
  | write size off v =>
    obtain ⟨-, e⟩ | ⟨-, -, -, e⟩ | ⟨-, -, e⟩ := busAccess_write_cases size off v s
    · simp [e]
    · simp [e]
    · obtain ⟨r, -, -, e'⟩ | ⟨-, -, e'⟩ | e' := busWrite_cases size off.toNat v s
      · rw [e, e']; cases r <;> exact ⟨rfl, rfl⟩
      · simp [e, e']
      · simp [e, e']

/-- A host access while reset is asserted meets the reset values and is undone but for what it read (R230). -/
theorem heldTurn_access (s : State) (a : Access) (rest : List HostEvent) (h : s.host = .access a :: rest) :
    heldTurn s = inReset (busAccess a { inReset s with host := rest }) := by
  have e : hostTurn (inReset s) = busAccess a { inReset s with host := rest } := by
    simp only [hostTurn, inReset_host, h]; rfl
  simp [heldTurn, e]

/-- A step while reset is asserted takes the host's next event away and leaves the engine at its reset values; its
release, and no other event, releases the reset input (R230). -/
theorem heldTurn_cases (s : State) :
    (∃ rest, s.host = .releaseReset :: rest ∧ heldTurn s = { inReset s with host := rest, resetAsserted := false }) ∨
    ((∀ rest, s.host ≠ .releaseReset :: rest) ∧
      ∃ u : State, u.host = s.host.tail ∧ heldTurn s = inReset u) := by
  cases h : s.host with
  | nil => exact .inr ⟨by simp, inReset s, by simp [h], by simp [heldTurn, hostTurn, h]⟩
  | cons e rest =>
    cases e with
    | access a => exact .inr ⟨by simp, _, (busAccess_outside a _).2, heldTurn_access s a rest h⟩
    | poll =>
      have e : hostTurn (inReset s) = busAccess statusRead { inReset s with host := rest } := by
        simp only [hostTurn, inReset_host, h]; rfl
      exact .inr ⟨by simp, busAccess statusRead { inReset s with host := rest }, (busAccess_outside statusRead _).2,
        by simp only [heldTurn, e]; rw [(busAccess_outside _ _).1]; rfl⟩
    | assertReset => exact .inr ⟨by simp, { s with host := rest }, rfl, by simp [heldTurn, hostTurn, h, hostEvent, inReset]⟩
    | releaseReset => exact .inl ⟨rest, rfl, by simp [heldTurn, hostTurn, h, hostEvent, inReset]; rfl⟩

/-- A step that answers `t` is a step held in reset; or, with reset released, the engine's command step, the host's next
event, or, with neither, no change; and no state with a reserved ERRCODE answers. -/
theorem step_cases (s t : State) (h : step s = .next t) :
    s.status.errCode.toNat ≤ 3 ∧
    ((s.resetAsserted = true ∧ t = heldTurn s) ∨
      (s.resetAsserted = false ∧ engineTurn s = true ∧ engineStep s = .next t) ∨
      (s.resetAsserted = false ∧ engineTurn s = false ∧ ∃ e rest, s.host = e :: rest ∧
        t = hostEvent e rest { s with latency := s.latency - 1 }) ∨
      (s.resetAsserted = false ∧ s.status.busy = false ∧ s.host = [] ∧ t = s)) := by
  by_cases hc : 3 < s.status.errCode.toNat
  · simp [step, turn, reservedCode, hc] at h
  refine ⟨by omega, ?_⟩
  cases hr : s.resetAsserted with
  | true => exact .inl ⟨rfl, by simpa [step, turn, reservedCode, hc, hr] using h.symm⟩
  | false =>
    cases he : engineTurn s with
    | true => exact .inr (.inl ⟨rfl, rfl, by simpa [step, turn, reservedCode, hc, hr, he] using h⟩)
    | false =>
      have ht : hostTurn s = t := by simpa [step, turn, reservedCode, hc, hr, he] using h
      cases hh : s.host with
      | nil =>
        refine .inr (.inr (.inr ⟨rfl, by simpa [engineTurn, hh] using he, rfl, ?_⟩))
        simpa [hostTurn, hh] using ht.symm
      | cons e rest =>
        refine .inr (.inr (.inl ⟨rfl, rfl, e, rest, rfl, ?_⟩))
        simpa [hostTurn, hh, hr] using ht.symm

/-- The engine's command step is a command's, or raises ILLEGAL (R92). -/
theorem engineStep_cases (s t : State) (h : engineStep s = .next t) :
    (∃ i, decode s.lcmd = .ok i ∧ exec i s = .next t) ∨
    ((∃ r, decode s.lcmd = .error r) ∧ t = raise .illegal s) := by
  simp only [engineStep] at h
  cases hd : decode s.lcmd with
  | ok i => rw [hd] at h; exact .inl ⟨i, rfl, h⟩
  | error r => rw [hd] at h; exact .inr ⟨⟨r, rfl⟩, by simpa using h.symm⟩

/-- A run of one more step is that step and then the run from where it goes. -/
theorem run_succ (n : Nat) (s u : State) (h : step s = .next u) :
    Host.Core.run core (n + 1) s = Host.Core.run core n u := by
  have e : core.step s = .next u := h
  rw [Host.Core.run.eq_2 core s n, e]

end Sys2Proof.Machine
end

