-- ==== Sys2Proof/Tests/Slice0.lean ====
section
/-! SUPPORT. The model's own tests. Expected values come from spec/95_test_vectors.md (the section is named on each) or
from words and bytes written out by hand from the rules. After them, for every statement with hypotheses, a witness: a
concrete state and operands that meet all of them together. -/

namespace Sys2Proof.Tests

open Sys2Proof.Machine

/-- The next state of an outcome. -/
def nextOf (r : Result) : Option State :=
  match r with
  | .next t => some t
  | .fault _ => none
  | .refused _ => none

/-- The state after reset with a command in flight. -/
def inFlight (w : Word) (n : Nat) (h : List HostEvent) : State :=
  { State.reset with lcmd := w, status := { Status.reset with busy := true }, latency := n, host := h }

/-- The state after reset with payload bytes at PMEM offset 0. -/
def withPayload (bs : List Byte) : State :=
  { State.reset with pmem := Memory.cells 0 bs, plen := BitVec.ofNat 32 bs.length, csLen := BitVec.ofNat 32 bs.length }

/-- The IPv4 registers of vector W7. -/
def synIp : IpRegs := { IpRegs.reset with id := 1, ttl := 64, proto := 6, src := 0x0A000001, dst := 0x0A000002 }

/-- The state of vector W7: CTRL = 3, PLEN = 0. -/
def syn : State :=
  { State.reset with
    ctrl := { ipLenMode := true, ipCsumMode := true }
    ip := synIp
    tcp := { TcpRegs.reset with sport := 54321, dport := 1234, seq := 90210, ack := 30905, flags := 0x02, win := 65535 } }

/-! ### WellFormed: an ill-formed term for each check, refused -/

theorem test_wellFormed_rsvd : ({ op := 0, src := 0, t := false, rsvd := 1 } : CommandFields).wellFormed = false := by
  decide
theorem test_wellFormed_op : ({ op := 0x13, src := 0, t := false, rsvd := 0 } : CommandFields).wellFormed = false := by
  decide
theorem test_wellFormed_srcUnused : ({ op := 0x21, src := 1, t := false, rsvd := 0 } : CommandFields).wellFormed = false := by
  decide
theorem test_wellFormed_srcReserved : ({ op := 0x02, src := 5, t := false, rsvd := 0 } : CommandFields).wellFormed = false := by
  decide
theorem test_wellFormed_t : ({ op := 0x11, src := 0, t := true, rsvd := 0 } : CommandFields).wellFormed = false := by
  decide

/-! ### Decoding: words written out bit by bit, RSVD(19) T(1) SRC(4) OP(8) (R90, R91; 2.9) -/

theorem test_decode_nop : decode 0b0000000000000000000_0_0000_00000000 = .ok .nop := by decide
theorem test_decode_accClear : decode 0b0000000000000000000_0_0000_00000001 = .ok .accClear := by decide
theorem test_decode_accAdd_psh : decode 0b0000000000000000000_0_0100_00000010 = .ok (.accAdd .psh) := by decide
theorem test_decode_accAdd_pmem : decode 0b0000000000000000000_0_0000_00000010 = .ok (.accAdd .pmem) := by decide
theorem test_decode_accFinal : decode 0b0000000000000000000_0_0000_00000011 = .ok .accFinal := by decide
theorem test_decode_csum_fmem : decode 0b0000000000000000000_0_0001_00000100 = .ok (.csum .fmem) := by decide
theorem test_decode_csum_tcph : decode 0b0000000000000000000_0_0011_00000100 = .ok (.csum .tcph) := by decide
theorem test_decode_buildIp : decode 0b0000000000000000000_0_0000_00010000 = .ok (.buildIp false) := by decide
theorem test_decode_buildIp_t : decode 0b0000000000000000000_1_0000_00010000 = .ok (.buildIp true) := by decide
theorem test_decode_buildPseudo : decode 0b0000000000000000000_0_0000_00010001 = .ok .buildPseudo := by decide
theorem test_decode_buildTcp : decode 0b0000000000000000000_0_0000_00010010 = .ok .buildTcp := by decide
theorem test_decode_asmIp : decode 0b0000000000000000000_0_0000_00100000 = .ok .asmIp := by decide
theorem test_decode_asmTcp : decode 0b0000000000000000000_0_0000_00100001 = .ok .asmTcp := by decide
theorem test_decode_iph : decode 0x00000202 = .ok (.accAdd .iph) := by decide
theorem test_decode_op5 : decode 0x00000005 = .error .reservedOpcode := by decide
theorem test_decode_src5 : decode 0x00000502 = .error .reservedSource := by decide
theorem test_decode_src15 : decode 0x00000F04 = .error .reservedSource := by decide
theorem test_decode_srcOnBuildIp : decode 0x00000110 = .error .sourceNotUsed := by decide
theorem test_decode_tOnAccAdd : decode 0x00001002 = .error .transportNotUsed := by decide
theorem test_decode_bit13 : decode 0x00002000 = .error .reservedBits := by decide
theorem test_decode_bit31 : decode 0x80000000 = .error .reservedBits := by decide
theorem test_decodeTableWord : decodeTableWord 32 0x1010 = some (.buildIp true) := by decide
theorem test_encode_buildIp : encode (.buildIp true) = 0x00001010 := by decide
theorem test_encode_csum : encode (.csum .psh) = 0x00000404 := by decide

/-! ### The checksum function (2.1, 2.2, W1, W4) -/

theorem test_checksum_rfc1071 : checksum [0x00, 0x01, 0xF2, 0x03, 0xF4, 0xF5, 0xF6, 0xF7] = 0x220D := by decide
theorem test_checksum_odd : checksum [0x12, 0x34, 0x56] = 0x97CB := by decide
theorem test_checksum_empty : checksum [] = 0xFFFF := by decide
theorem test_checksum_carry : checksum [0x80, 0x00, 0x80, 0x00] = 0xFFFE := by decide
theorem test_ocadd_wraps : ocadd 0xFFFFFFFF 0x0001 = 0x00000001 := by decide
theorem test_ocadd_plain : ocadd 0x12345678 0xABCD = 0x12350245 := by decide
theorem test_fold_twoPasses : fold 0xFFFFFFFF = 0xFFFF := by decide
theorem test_fold_sum : fold 0x2DDF0 = 0xDDF2 := by decide

/-! ### One command each (2.3 to 2.8, P1 to P7) -/

/-- 2.3 step 1: NOP from reset leaves STATUS 0x00000002. -/
theorem test_nop_status : (nextOf (exec .nop (inFlight 0 0 []))).map (readReg .status) = some 0x00000002 := by decide

/-- R111's example. -/
theorem test_accClear :
    (nextOf (exec .accClear { State.reset with cs := { acc := 0x0002DDF0, pendV := true, pendB := 7 } })).map
      (fun t => (readReg .csAcc t, readReg .csPend t)) = some (0, 0) := by decide

/-- 2.3 step 2. -/
theorem test_accAdd_holdsOddByte :
    (nextOf (exec (.accAdd .pmem) (withPayload [0x12, 0x34, 0x56]))).map
      (fun t => (readReg .csAcc t, readReg .csPend t)) = some (0x00001234, 0x00000156) := by decide

/-- 2.3 step 4. -/
theorem test_accAdd_range :
    (nextOf (exec (.accAdd .pmem) { inFlight 2 0 [] with csLen := 65537 })).map (readReg .status) = some 0x00000204 := by
  decide

/-- 2.3 step 3. -/
theorem test_accFinal_padsLocally :
    (nextOf (exec .accFinal { State.reset with cs := { acc := 0x1234, pendV := true, pendB := 0x56 } })).map
      (fun t => (readReg .csResult t, readReg .csPend t)) = some (0x000097CB, 0x00000156) := by decide

/-- P1. -/
theorem test_csum_rfc1071 :
    (nextOf (exec (.csum .pmem) (withPayload [0x00, 0x01, 0xF2, 0x03, 0xF4, 0xF5, 0xF6, 0xF7]))).map
      (fun t => (readReg .csResult t, readReg .csAcc t, readReg .csPend t)) = some (0x220D, 0x0002DDF0, 0) := by decide

/-- 2.4: offset + length is 2^32 + 1, exact, with no wrap. -/
theorem test_csum_noWrap :
    (nextOf (exec (.csum .pmem) { inFlight 4 0 [] with csOff := 0xFFFFFFFF, csLen := 2 })).map (readReg .status) =
      some 0x00000204 := by decide

/-- IP6. -/
theorem test_buildIp_syn :
    (nextOf (exec (.buildIp true) syn)).map (fun t => t.iph.toList) =
      some [0x45, 0x00, 0x00, 0x28, 0x00, 0x01, 0x00, 0x00, 0x40, 0x06, 0x66, 0xCD, 0x0A, 0x00, 0x00, 0x01,
        0x0A, 0x00, 0x00, 0x02] := by decide

/-- IP3: PLEN and T are ignored in supplied-length mode. -/
theorem test_buildIp_supplied :
    (nextOf (exec (.buildIp true)
      { State.reset with plen := 99999, ip := { IpRegs.reset with totLen := 0x1234, csum := 0xABCD, ttl := 1 } })).map
      (fun t => t.iph.toList) =
      some [0x45, 0x00, 0x12, 0x34, 0x00, 0x00, 0x00, 0x00, 0x01, 0x00, 0xAB, 0xCD, 0x00, 0x00, 0x00, 0x00,
        0x00, 0x00, 0x00, 0x00] := by decide

/-- 2.6. -/
theorem test_buildPseudo_limit :
    (nextOf (exec .buildPseudo { syn with plen := 65515 })).map (fun t => t.psh.toList) =
      some [0x0A, 0x00, 0x00, 0x01, 0x0A, 0x00, 0x00, 0x02, 0x00, 0x06, 0xFF, 0xFF] := by decide

/-- 2.6: RANGE before TOO_LARGE. -/
theorem test_buildPseudo_range :
    (nextOf (exec .buildPseudo { inFlight 0x11 0 [] with plen := 70000 })).map (readReg .status) = some 0x00000204 := by
  decide

/-- P7: one byte too many is TOO_LARGE, STATUS 0x00000304. -/
theorem test_buildTcp_tooLarge :
    (nextOf (exec .buildTcp { inFlight 0x12 0 [] with plen := 65516 })).map (readReg .status) = some 0x00000304 := by
  decide

/-- TCP1. -/
theorem test_buildTcp_syn :
    (nextOf (exec .buildTcp syn)).map (fun t => t.tcph.toList) =
      some [0xD4, 0x31, 0x04, 0xD2, 0x00, 0x01, 0x60, 0x62, 0x00, 0x00, 0x78, 0xB9, 0x50, 0x02, 0xFF, 0xFF,
        0xE9, 0xBF, 0x00, 0x00] := by decide

/-- TCP3: an odd payload. -/
theorem test_buildTcp_oddPayload :
    (nextOf (exec .buildTcp
      { withPayload [1, 2, 3, 4, 5, 6, 7] with
        ip := synIp, tcp := { syn.tcp with seq := 90211, flags := 0x18 } })).map (fun t => t.tcph.toList) =
      some [0xD4, 0x31, 0x04, 0xD2, 0x00, 0x01, 0x60, 0x63, 0x00, 0x00, 0x78, 0xB9, 0x50, 0x18, 0xFF, 0xFF,
        0xD9, 0x95, 0x00, 0x00] := by decide

/-- R181 on a 3-byte payload and a zero IPH: 23 bytes, the payload last and unpadded. -/
theorem test_asmIp_frame :
    (nextOf (exec .asmIp (withPayload [0x11, 0x22, 0x33]))).map
      (fun t => (readReg .flen t, [18, 19, 20, 21, 22, 23].map (Memory.byteAt t.fmem))) =
      some (23, [some 0, some 0, some 0x11, some 0x22, some 0x33, none]) := by decide

/-- AS2. -/
theorem test_asmTcp_reset :
    (nextOf (exec .asmTcp State.reset)).map (fun t => (readReg .flen t, t.fmem.length)) = some (40, 40) := by decide

/-- AS3. -/
theorem test_asmTcp_range :
    (nextOf (exec .asmTcp { inFlight 0x21 0 [] with plen := 65537 })).map (readReg .status) = some 0x00000204 := by decide

/-! ### The host bus and the step (2.10, 2.11, P8) -/

theorem test_bus_widthDropped :
    readReg .ipId (busAccess (.write .word 0x018 0x00012345) State.reset) = 0x00002345 := by decide

theorem test_bus_halfRegisterRead :
    (busAccess (.read .half 0x018) State.reset).status.toWord = 0x00000008 := by decide

theorem test_bus_misalignedWrite :
    (busAccess (.write .half 0x10001 0xBEEF) State.reset).pmem = [] := by decide

theorem test_bus_bigEndianLanes :
    ((busAccess (.write .word 0x10004 0x01020304) State.reset).pmem) = [(4, 1), (5, 2), (6, 3), (7, 4)] := by decide

theorem test_bus_halfRead :
    (busAccess (.read .half 0x10006) { State.reset with pmem := [(4, 1), (5, 2), (6, 3), (7, 4)] }).rdata = 0x0304 := by
  decide

theorem test_bus_rewriteKeepsForm :
    (busAccess (.write .byte 0x10005 0xAA) { State.reset with pmem := [(4, 1), (5, 2), (6, 3)] }).pmem =
      [(4, 1), (5, 0xAA), (6, 3)] := by decide

theorem test_bus_beyondFmem : (busAccess (.read .word 0x3FFFC) State.reset).rdata = 0 := by decide

/-- 2.11: a write while busy is dropped. -/
theorem test_busy_writeDropped :
    (fun t : State => (t.status.toWord, t.plen)) (busAccess (.write .word 0x060 7) (inFlight 0 5 [])) =
      (0x00000011, 0) := by decide

/-- 2.11: WRBUSY is cleared while busy. -/
theorem test_busy_statusWrite :
    (busAccess (.write .word 0x004 0x10) { inFlight 0 5 [] with status := { Status.reset with busy := true, wrBusy := true } }).status.toWord =
      0x00000001 := by decide

/-- 2.9: an illegal word. -/
theorem test_step_illegal : (nextOf (step (inFlight 0x00000005 0 []))).map (readReg .status) = some 0x00000104 := by decide

/-- P8, end state A: the write comes before the command's step, and is dropped. -/
theorem test_step_writeBefore :
    (nextOf (step (inFlight 4 1 [.access (.write .word 0x068 4)]))).map (fun t => (t.status.toWord, t.csLen, t.latency)) =
      some (0x00000011, 0, 0) := by decide

/-- P8, end state B: the command's step comes first. -/
theorem test_step_commandFirst :
    (nextOf (step (inFlight 4 0 [.access (.write .word 0x068 4)]))).map
      (fun t => (t.status.toWord, t.csResult, t.host.length)) = some (0x00000002, 0xFFFF, 1) := by decide

theorem test_step_withFetchWord :
    (nextOf (step (State.reset.withFetchWord 32 0x00001010))).map (fun t => (t.status.toWord, t.lcmd, t.iph.toList.head?)) =
      some (0x00000002, 0x00001010, some 0x45) := by decide

/-- R230: asserting reset abandons the command in flight and clears the registers. -/
theorem test_reset_asserted :
    (nextOf (step { inFlight 0x12 1 [.assertReset] with plen := 7 })).map
      (fun t => (t.status.toWord, t.lcmd, t.plen, t.resetAsserted)) = some (0, 0, 0, true) := by decide

/-- R230: a PLEN write and a CMD write are lost while reset is asserted, and still after its release. -/
theorem test_reset_writesLost :
    ((nextOf (step { State.reset with
        resetAsserted := true, host := [.access (.write .word 0x060 7), .access (.write .word 0x008 0), .releaseReset] })).bind
      fun t => (nextOf (step t)).bind fun u => nextOf (step u)).map
      (fun t => (t.status.toWord, t.plen, t.resetAsserted, t.host)) = some (0, 0, false, []) := by decide

theorem test_step_idle : (nextOf (step State.reset)).map (fun t => t.status.toWord) = some 0 := by decide

/-! ### Witnesses: every statement's hypotheses, met together -/

theorem witness_ResetInputAbandonsCommand :
    (fun s : State => s.status.errCode.toNat ≤ 3 ∧ s.host = .assertReset :: [.poll] ∧ s.resetAsserted = false ∧
      s.status.busy = true ∧ 0 < s.latency) (inFlight 0x12 1 [.assertReset, .poll]) := by decide

/-- Held in reset, with host events to come. -/
def heldIn (h : List HostEvent) : State := { State.reset with resetAsserted := true, host := h }

theorem witness_ResetHoldsRegisters :
    (heldIn [.access (.read .word 0x1FC)]).status.errCode.toNat ≤ 3 ∧
      (heldIn [.access (.read .word 0x1FC)]).resetAsserted = true ∧ 0x1FC % 4 = 0 ∧ 0x1FC < 0x200 ∧
      (heldIn [.access (.read .word 0x1FC)]).host = .access (.read .word (BitVec.ofNat 18 0x1FC)) :: [] ∧
      (heldIn [.releaseReset]).host = .releaseReset :: [] := by decide

/-- A state with a command in flight and nothing built or written satisfies the invariant. -/
theorem inFlight_inv (w : Word) (n : Nat) (h : List HostEvent) : (inFlight w n h).Inv where
  status := by constructor <;> simp [inFlight, Status.reset]
  pend := fun _ => rfl
  pmem := by simp [inFlight, State.reset, Memory.wf]
  fmem := by simp [inFlight, State.reset, Memory.wf]
  flen := by simp [inFlight, State.reset]
  frame := fun a ha => absurd ha (Nat.not_lt_zero a)
  held := fun h => absurd h (by simp [inFlight, State.reset])

theorem witness_StepKeepsInv : (inFlight 0x20 0 []).Inv ∧ ∃ t, step (inFlight 0x20 0 []) = .next t := ⟨inFlight_inv _ _ _, _, rfl⟩

theorem witness_StepAlwaysAnswersNext : (inFlight 0x05 0 []).Inv := inFlight_inv _ _ _

theorem witness_IllegalWordRaisesIllegal :
    (fieldsOf (inFlight 0x404 0 []).lcmd).wellFormed = true ∧ (fieldsOf (inFlight 0x504 0 []).lcmd).wellFormed = false := by
  decide

theorem witness_StepRunsDecodedCommand :
    (inFlight 3 0 [.poll]).status.errCode.toNat ≤ 3 ∧ (inFlight 3 0 [.poll]).resetAsserted = false ∧
      (inFlight 3 0 [.poll]).status.busy = true ∧
      (inFlight 3 0 [.poll]).latency = 0 ∧ (inFlight 3 5 []).host = [] ∧ decode (inFlight 3 0 [.poll]).lcmd = .ok .accFinal := by
  decide

theorem witness_StepTakesHostAccess :
    (inFlight 3 1 [.access (.read .word 4)]).host = .access (.read .word 4) :: [] ∧
      0 < (inFlight 3 1 [.access (.read .word 4)]).latency ∧ State.reset.status.busy = false ∧ State.reset.host = [] ∧
      State.reset.status.errCode.toNat ≤ 3 ∧ State.reset.resetAsserted = false := by decide

theorem witness_IssuedCommandCompletes : (inFlight 4 2 [.poll, .poll, .poll]).Inv ∧ (inFlight 4 2 [.poll, .poll, .poll]).status.busy = true :=
  ⟨inFlight_inv _ _ _, rfl⟩

/-- The reset case of the same statement: reset is asserted before the command's step. -/
theorem witness_IssuedCommandCompletes_reset :
    (inFlight 4 1 [.assertReset]).Inv ∧ (inFlight 4 1 [.assertReset]).status.busy = true ∧
      HostEvent.assertReset ∈ (inFlight 4 1 [.assertReset]).host :=
  ⟨inFlight_inv _ _ _, rfl, by decide⟩

theorem witness_OnlyCmdWriteStartsCommand :
    ∃ t, step { State.reset with host := [.access (.write .word 0x008 0x12)] } = .next t ∧ t.status.busy = true :=
  ⟨_, rfl, rfl⟩

theorem witness_FrameChanges_assemble :
    (inFlight 0x20 0 []).Inv ∧ ∃ t, step (inFlight 0x20 0 []) = .next t ∧ ¬SameFrame (inFlight 0x20 0 []) t :=
  ⟨inFlight_inv _ _ _, _, rfl, fun h => absurd h.1 (by decide)⟩

/-- A one-byte frame, and reset about to be asserted. -/
def framed : State := { State.reset with flen := 1, fmem := [(0, 0x45)], host := [.assertReset] }

theorem witness_FrameChanges_reset : framed.Inv ∧ ∃ t, step framed = .next t ∧ ¬SameFrame framed t where
  left :=
    { status := by constructor <;> simp [framed, State.reset, Status.reset]
      pend := fun _ => rfl
      pmem := by simp [framed, State.reset, Memory.wf]
      fmem := by simp [framed, State.reset, Memory.wf, Config.fmemSize]
      flen := by decide
      frame := by
        intro a h
        have : a = 0 := by simpa [framed] using h
        subst this; rfl
      held := fun h => absurd h (by simp [framed, State.reset]) }
  right := ⟨_, rfl, fun h => absurd h.1 (by decide)⟩

theorem witness_ChecksumOfPaddedWords : ([7, 0] : List Byte) = (if ([7] : List Byte).length % 2 = 1 then [7] ++ [0] else [7]) := by
  decide

theorem witness_EndAroundCarry :
    0xFFFF ≤ 0xFFFF ∧ (0xFFFF0000 : Word).toNat + 0xFFFF < 2 ^ 32 ∧ 2 ^ 32 ≤ (0xFFFF0001 : Word).toNat + 0xFFFF := by decide

theorem witness_FoldIsResidue :
    (0x10000 : Nat) < 2 ^ 32 ∧ 0 < 0x10000 ∧ 1 ≤ 1 ∧ 1 ≤ 0xFFFF ∧ 1 % 0xFFFF = 0x10000 % 0xFFFF := by decide

theorem witness_AccumulatorEquivalence : ∀ w ∈ ([0xFFFF, 0, 1] : List Nat), w ≤ 0xFFFF := by decide

theorem witness_SelfVerification :
    2 * 1 + 1 < ([0, 1, 0, 0] : List Byte).length ∧ ([0, 1, 0, 0] : List Byte).getD (2 * 1) 0 = 0 ∧
      ([0, 1, 0, 0] : List Byte).getD (2 * 1 + 1) 0 = 0 := by decide

theorem witness_ByteOrderConsistency :
    2 * 0 + 1 < ([0, 0, 0xF2] : List Byte).length ∧ ([0, 0, 0xF2] : List Byte).getD (2 * 0) 0 = 0 ∧
      ([0, 0, 0xF2] : List Byte).getD (2 * 0 + 1) 0 = 0 := by decide

theorem witness_AccAddAccumulatesRange :
    (fun s : State => (s.cs.pendV = false → s.cs.pendB = 0) ∧ s.csOff.toNat + s.csLen.toNat ≤ srcSize .pmem ∧
      [0x56, 0x12, 0x34] = (if s.cs.pendV then [s.cs.pendB] else []) ++ rangeBytes .pmem s)
      { withPayload [0x12, 0x34] with cs := { acc := 1, pendV := true, pendB := 0x56 } } := by decide

/-- A state whose range ends at a source's size, with PMEM's and FMEM's last bytes written. -/
def endRange (off : Word) : State :=
  { State.reset with csOff := off, csLen := 1, pmem := [(65535, 7)], fmem := [(65575, 8)] }

theorem witness_ChecksumRangeReadsSource :
    (endRange 65535).csOff.toNat + (endRange 65535).csLen.toNat = srcSize .pmem ∧
      Memory.byteAt (endRange 65535).pmem ((endRange 65535).csOff.toNat + 0) = some 7 ∧
      (endRange 65575).csOff.toNat + (endRange 65575).csLen.toNat = srcSize .fmem ∧
      Memory.byteAt (endRange 65575).fmem ((endRange 65575).csOff.toNat + 0) = some 8 ∧
      (endRange 19).csOff.toNat + (endRange 19).csLen.toNat = srcSize .iph ∧
      (endRange 19).csOff.toNat + (endRange 19).csLen.toNat = srcSize .tcph ∧
      (endRange 11).csOff.toNat + (endRange 11).csLen.toNat = srcSize .psh ∧ 0 < (endRange 11).csLen.toNat := by decide

theorem witness_CsumIsTheChecksumOfTheRange :
    (endRange 65535).csOff.toNat + (endRange 65535).csLen.toNat ≤ srcSize .pmem ∧
      [7] = rangeBytes .pmem (endRange 65535) := by decide

theorem witness_StreamedRangesChecksum :
    ∃ s u : State, Streamed s [0x12, 0x34, 0x56] ∧ u.cs = s.cs :=
  ⟨_, _, Streamed.add (bs := []) (src := .pmem) (u := withPayload [0x12, 0x34, 0x56])
    (Streamed.clear (s := State.reset) rfl) rfl (by decide) rfl, rfl⟩

theorem witness_CommandReportsItsFirstError :
    commandError .buildTcp { State.reset with plen := 65537 } = some .range ∧
      commandError .buildTcp { State.reset with plen := 65516 } = some .tooLarge ∧
      commandError .buildTcp { State.reset with plen := 65515 } = none ∧
      commandError (.csum .psh) { State.reset with csLen := 13 } = some .range ∧
      commandError (.buildIp true) { syn with plen := 65496 } = some .tooLarge ∧
      commandError (.buildIp true) { syn with plen := 65495 } = none ∧
      commandError .asmTcp { State.reset with plen := 65537 } = some .range ∧
      commandError .asmTcp { State.reset with plen := 65536 } = none := by decide

theorem witness_FailedCommandIsPrecise_illegal :
    ∃ t, engineStep (inFlight 0x05 0 []) = .next t ∧ (inFlight 0x05 0 []).status.err = false ∧ t.status.err = true :=
  ⟨_, rfl, rfl, rfl⟩

theorem witness_FailedCommandIsPrecise_range :
    ∃ t, engineStep { inFlight 0x20 0 [] with plen := 65537 } = .next t ∧
      (inFlight 0x20 0 []).status.err = false ∧ t.status.err = true := ⟨_, rfl, rfl, rfl⟩

theorem witness_FailedCommandIsPrecise :
    ∃ t, engineStep { inFlight 0x12 0 [] with plen := 65516 } = .next t ∧
      (inFlight 0x12 0 []).status.err = false ∧ t.status.err = true := ⟨_, rfl, rfl, rfl⟩

theorem witness_CommandsNeverWriteHostState : ∃ t, exec .asmTcp syn = .next t := ⟨_, rfl⟩

theorem witness_CommandsWriteOnlyTheirResults : ∃ t, exec .buildTcp syn = .next t := ⟨_, rfl⟩

theorem witness_BuildIpPacksHeader :
    { syn with plen := 65495 }.ctrl.ipLenMode = true ∧ 20 + 20 * true.toNat + { syn with plen := 65495 }.plen.toNat ≤ 0xFFFF ∧
      State.reset.ctrl.ipLenMode = false := by decide

theorem witness_BuiltIpHeaderShape :
    ∃ t, exec (.buildIp false) State.reset = .next t ∧ State.reset.status.done = false ∧ t.status.done = true :=
  ⟨_, rfl, rfl, rfl⟩

theorem witness_BuiltIpHeaderSelfVerifies :
    ∃ t u : State, syn.ctrl.ipCsumMode = true ∧ exec (.buildIp true) syn = .next t ∧ syn.status.done = false ∧
      t.status.done = true ∧ u.iph = t.iph ∧ u.csOff = 0 ∧ u.csLen = 20 :=
  ⟨_, { writeIpHeader 40 syn with csLen := 20 }, rfl, rfl, rfl, rfl, rfl, rfl, rfl⟩

theorem witness_BuildPseudoPacksHeader : 20 + { syn with plen := 65515 }.plen.toNat ≤ 0xFFFF := by decide

theorem witness_BuildTcpPacksHeader : 20 + { syn with plen := 65515 }.plen.toNat ≤ 0xFFFF := by decide

theorem witness_BuiltTcpHeaderSelfVerifies :
    ∃ t, exec .buildTcp syn = .next t ∧ syn.status.done = false ∧ t.status.done = true := ⟨_, rfl, rfl, rfl⟩

theorem witness_PayloadIsPmem :
    0 < (withPayload [5]).plen.toNat ∧ Memory.byteAt (withPayload [5]).pmem 0 = some 5 := by decide

theorem witness_AsmIpConcatenates : { State.reset with plen := 65536 }.plen.toNat ≤ 65536 := by decide

theorem witness_AsmTcpConcatenates : { State.reset with plen := 65536 }.plen.toNat ≤ 65536 := by decide

theorem witness_ComputedTotalLengthIsFlen :
    ∃ t v : State, syn.ctrl.ipLenMode = true ∧ exec (.buildIp true) syn = .next t ∧ syn.status.done = false ∧
      t.status.done = true ∧ t.plen = syn.plen ∧ exec (if true then .asmTcp else .asmIp) t = .next v :=
  ⟨_, _, rfl, rfl, rfl, rfl, rfl, rfl⟩

theorem witness_BusErrorEffect :
    (0x200 ≤ (0x200 : BitVec 18).toNat ∧ (0xFFFF : BitVec 18).toNat < 0x10000) ∧
      ((0x1FE : BitVec 18).toNat < 0x200 ∧ AccessSize.half.bytes ≠ 4) ∧ (0x1FD : BitVec 18).toNat % AccessSize.word.bytes ≠ 0 ∧
      (0x1FD : BitVec 18).toNat < 0x30028 ∧ (0x30027 : BitVec 18).toNat < 0x30028 ∧
      (0x30027 : BitVec 18).toNat % AccessSize.half.bytes ≠ 0 := by decide

theorem witness_MisalignedBeyondFmemIsBusError :
    0x30028 ≤ (0x30029 : BitVec 18).toNat ∧ (0x30029 : BitVec 18).toNat % AccessSize.half.bytes ≠ 0 ∧
      (0x3FFFE : BitVec 18).toNat % AccessSize.word.bytes ≠ 0 := by decide

theorem witness_WriteWhileBusyIsDropped :
    (inFlight 0 1 []).status.busy = true ∧ (0x10000 : BitVec 18) ≠ 0x004 ∧
      ¬(0x200 ≤ (0x10000 : BitVec 18).toNat ∧ (0x10000 : BitVec 18).toNat < 0x10000) ∧
      ((0x10000 : BitVec 18).toNat < 0x200 → AccessSize.byte.bytes = 4) ∧
      (0x10000 : BitVec 18).toNat % AccessSize.byte.bytes = 0 ∧
      (0x200 ≤ (0x0FFFF : BitVec 18).toNat ∧ (0x0FFFF : BitVec 18).toNat < 0x10000) ∧ (0x0FFFF : BitVec 18) ≠ 0x004 := by decide

theorem witness_CmdWriteIssues : State.reset.status.busy = false := by decide

theorem witness_RegisterWriteReadsBack :
    State.reset.status.busy = false ∧ (0x050, 4) ∈ [(0x000, 2), (0x050, 4), (0x068, 32)] ∧
      (0x020, 0) ∈ hostRegisters State.reset ++ resultRegisters State.reset ∧ 0x020 ≠ 0x050 := by decide

theorem witness_ReadOnlyWritesAreIgnored :
    State.reset.status.busy = false ∧ (0x07C : BitVec 18).toNat ∈ [0x00C, 0x034, 0x038, 0x03C, 0x06C, 0x070, 0x074, 0x078, 0x07C] ∧
      (0x07C : BitVec 18).toNat % AccessSize.word.bytes = 0 ∧ 0x080 ≤ (0x080 : BitVec 18).toNat ∧
      (0x1FC : BitVec 18).toNat < 0x200 ∧ (0x1FC : BitVec 18).toNat % AccessSize.word.bytes = 0 ∧
      0x20000 ≤ (0x20000 : BitVec 18).toNat ∧ (0x3FFFF : BitVec 18).toNat % AccessSize.byte.bytes = 0 := by decide

theorem witness_PmemWriteMovesBytes :
    State.reset.status.busy = false ∧ (0x10000 : BitVec 18).toNat % AccessSize.word.bytes = 0 ∧
      0x10000 ≤ (0x10000 : BitVec 18).toNat ∧ (0x1FFFC : BitVec 18).toNat < 0x20000 ∧
      (0x1FFFC : BitVec 18).toNat % AccessSize.word.bytes = 0 := by decide

theorem witness_MemoryReadIsBigEndian :
    (fun s : State => (∀ i, i < AccessSize.byte.bytes → Memory.byteAt s.pmem ((0x1FFFF : BitVec 18).toNat - 0x10000 + i) = ([7] : List Byte)[i]?) ∧
      (0x1FFFF : BitVec 18).toNat < 0x20000 ∧ s.status.busy = false ∧ (0x30027 : BitVec 18).toNat < 0x30028 ∧
      (∀ i, i < AccessSize.byte.bytes → Memory.byteAt s.fmem ((0x30027 : BitVec 18).toNat - 0x20000 + i) = ([8] : List Byte)[i]?))
      (endRange 0) := by decide

theorem witness_WindowsShowBuiltHeaders :
    State.reset.status.busy = false ∧ 0x144 % 4 = 0 ∧ 0x1FC < 0x200 ∧ 0x080 % 4 = 0 ∧
      (0x30028 : BitVec 18).toNat % AccessSize.word.bytes = 0 ∧ 0x30028 ≤ (0x30028 : BitVec 18).toNat := by decide

theorem witness_ReadsHaveNoSideEffects :
    busError .word (0x07C : BitVec 18).toNat = false ∧ State.reset.status.busy = false ∧ (0x07C : BitVec 18).toNat < 0x200 := by
  decide

theorem witness_RegisterReadsReturnTheirValue :
    (inFlight 0 1 []).status.busy = true ∧ (0x004, 1) ∈ hostRegisters (inFlight 0 1 []) ∧
      syn.status.busy = false ∧ (0x020, 64) ∈ hostRegisters syn ∧ (0x07C, 0) ∈ resultRegisters syn := by decide

theorem witness_RunIssuesItsCommand :
    (fun s : State => s.status.errCode.toNat ≤ 3 ∧ s.resetAsserted = false ∧ s.status.busy = false ∧
      s.host = (HostOp.run (.csum .iph)).events ++ [.poll])
      { State.reset with host := hostEvents [.run (.csum .iph), .poll] } := by decide

theorem witness_PollRepeatsUntilIdle :
    (inFlight 0 1 [.poll]).status.errCode.toNat ≤ 3 ∧ (inFlight 0 1 [.poll]).resetAsserted = false ∧
      (inFlight 0 1 [.poll]).host = .poll :: [] ∧ 0 < (inFlight 0 1 [.poll]).latency := by decide

end Sys2Proof.Tests
end

namespace Sys2Proof.Machine

/-! ### What a command does, once

A command whose checks fail raises the error `commandError` names; any other command writes its results and finishes. -/

/-- The total length BUILD_IP packs: computed or supplied (R131). -/
def packedLength (tf : Bool) (s : State) : Half :=
  if s.ctrl.ipLenMode then BitVec.ofNat 16 (computedLength tf s) else s.ip.totLen

/-- The state with a command's results written, before the command completes. -/
def writeResults (i : Instr) (s : State) : State :=
  match i with
  | .nop => s
  | .accClear => clearAccum s
  | .accAdd src => accumulate src s
  | .accFinal => finalise s
  | .csum src => finalise (accumulate src (clearAccum s))
  | .buildIp tf => writeIpHeader (packedLength tf s) s
  | .buildPseudo => writePseudo s
  | .buildTcp => writePseudo (writeTcpHeader s)
  | .asmIp => writeFrame s.iph.toList s
  | .asmTcp => writeFrame (s.iph.toList ++ s.tcph.toList) s

/-- A command either reports the error R201 and R202 find, or writes its results and finishes (R33). -/
theorem exec_eq (i : Instr) (s : State) :
    exec i s = .next ((commandError i s).elim (finish (writeResults i s)) (raise · s)) := by
  cases i with
  | nop | accClear | accFinal => rfl
  | accAdd src => simp only [exec, execAccAdd, commandError, rangeBad_iff, gt_iff_lt]; split <;> rfl
  | csum src => simp only [exec, execCsum, commandError, rangeBad_iff, gt_iff_lt]; split <;> rfl
  | buildIp tf =>
    cases hm : s.ctrl.ipLenMode with
    | true =>
      simp only [exec, execBuildIp, commandError, writeResults, packedLength, hm, payloadBad_iff, tooLarge_iff,
        computedLength_eq, gt_iff_lt, Bool.true_eq_false, if_true, if_false]
      split_ifs <;> rfl
    | false => simp [exec, execBuildIp, commandError, writeResults, packedLength, hm]
  | buildPseudo =>
    simp only [exec, execBuildPseudo, commandError, payloadBad_iff, tooLarge_iff, segmentLength_eq, gt_iff_lt]
    split_ifs <;> rfl
  | buildTcp =>
    simp only [exec, execBuildTcp, commandError, payloadBad_iff, tooLarge_iff, segmentLength_eq, gt_iff_lt]
    split_ifs <;> rfl
  | asmIp => simp only [exec, execAsmIp, commandError, payloadBad_iff, gt_iff_lt]; split <;> rfl
  | asmTcp => simp only [exec, execAsmTcp, commandError, payloadBad_iff, gt_iff_lt]; split <;> rfl

/-- A command that answers `t` has reported its first error, or has passed its checks, written its results and
finished. -/
theorem exec_next_cases {i : Instr} {s t : State} (h : exec i s = .next t) :
    (∃ c, commandError i s = some c ∧ t = raise c s) ∨
      (commandError i s = none ∧ t = finish (writeResults i s)) := by
  rw [exec_eq] at h
  cases hc : commandError i s with
  | some c => exact .inl ⟨c, rfl, by simpa [hc] using h.symm⟩
  | none => exact .inr ⟨rfl, by simpa [hc] using h.symm⟩

/-- An ASM command that passes its check has a payload that fits PMEM (R201). -/
theorem plen_le_of_asm {i : Instr} {s : State} (hi : i = .asmIp ∨ i = .asmTcp) (h : commandError i s = none) :
    s.plen.toNat ≤ 65536 := by
  by_contra hp
  obtain rfl | rfl := hi <;> simp [commandError, show s.plen.toNat > 65536 by omega] at h

/-! ### The invariant, one operation at a time

Each operation of a state with reset released keeps `State.Inv`; the record update `{ hi with … }` names the clauses the
operation touches, and `held` is about reset asserted only. -/

theorem Status.reset_ok : Status.reset.Ok := by
  constructor <;> simp [Status.reset]

theorem Status.issued_ok (st : Status) : st.issued.Ok := by
  constructor <;> simp

/-- A command in flight ends in success with neither ERR nor ERRCODE, which BUSY excluded (R24). -/
theorem Status.Ok.finished {st : Status} (h : st.Ok) (hb : st.busy = true) : st.finished.Ok := by
  have he : st.err = false := by simpa [hb] using h.busyErr
  exact { h with busyDone := by simp, busyErr := by simp, doneErr := by simp [he] }

/-- A command in flight ends in an error without DONE, which BUSY excluded (R24). -/
theorem Status.Ok.failed {st : Status} (h : st.Ok) (hb : st.busy = true) (c : CmdError) : (st.failed c).Ok := by
  have hd : st.done = false := by simpa [hb] using h.busyDone
  constructor <;> cases c <;> simp [hd, CmdError.code]

/-- Reset held leaves no command in flight, so a state with one has reset released (R230). -/
theorem State.Inv.released_of_busy {s : State} (hi : s.Inv) (hb : s.status.busy = true) : s.resetAsserted = false := by
  by_contra hr
  have hs : s = inReset s := hi.held (by simpa using hr)
  rw [hs, inReset_status] at hb
  exact absurd hb (by decide)

theorem finish_inv {s : State} (hi : s.Inv) (hb : s.status.busy = true) : (finish s).Inv :=
  { hi with status := hi.status.finished hb, held := by simp [hi.released_of_busy hb] }

theorem raise_inv {s : State} (hi : s.Inv) (hb : s.status.busy = true) (c : CmdError) : (raise c s).Inv :=
  { hi with status := hi.status.failed hb c, held := by simp [hi.released_of_busy hb] }

/-- Whatever stands in the fields that only the host and the draws touch, the engine held in reset has the
invariant. -/
theorem inReset_inv (s : State) : (inReset s).Inv where
  status := Status.reset_ok
  pend := fun _ => rfl
  pmem := Memory.nil_wf _
  fmem := Memory.nil_wf _
  flen := Nat.zero_le _
  frame := fun a ha => absurd ha (Nat.not_lt_zero a)
  held := fun _ => rfl

/-- A byte held back is the only way PEND_B becomes other than 0 (R112). -/
theorem Accum.addByte_pend (a : Accum) (c : Byte) (h : (a.addByte c).pendV = false) : (a.addByte c).pendB = 0 := by
  cases ha : a.pendV <;> simp_all [Accum.addByte]

theorem Accum.addBytes_pend (bs : List Byte) (a : Accum) (ha : a.pendV = false → a.pendB = 0) :
    (a.addBytes bs).pendV = false → (a.addBytes bs).pendB = 0 := by
  induction bs generalizing a with
  | nil => exact ha
  | cons b bs ih => exact ih (a.addByte b) (a.addByte_pend b)

section
variable {s : State} (hi : s.Inv) (hr : s.resetAsserted = false)
include hi hr

theorem clearAccum_inv : (clearAccum s).Inv :=
  { hi with pend := fun _ => rfl, held := by simp [clearAccum, hr] }

theorem accumulate_inv (src : Src) : (accumulate src s).Inv :=
  { hi with pend := Accum.addBytes_pend _ _ hi.pend, held := by simp [accumulate, hr] }

theorem finalise_inv : (finalise s).Inv :=
  { hi with held := by simp [finalise, hr] }

theorem writeIpHeader_inv (tl : Half) : (writeIpHeader tl s).Inv :=
  { hi with held := by simp [writeIpHeader, hr] }

theorem writePseudo_inv : (writePseudo s).Inv :=
  { hi with held := by simp [writePseudo, hr] }

theorem writeTcpHeader_inv : (writeTcpHeader s).Inv :=
  { hi with held := by simp [writeTcpHeader, hr] }

/-- FMEM_SIZE is PMEM_SIZE + 40, so at most 40 bytes of headers and a payload that fits PMEM fit FMEM (R182); every byte
below FLEN is one the frame wrote. -/
theorem writeFrame_inv {hs : List Byte} (hl : hs.length ≤ 40) (hp : s.plen.toNat ≤ 65536) : (writeFrame hs s).Inv :=
  have hflen : (writeFrame hs s).flen.toNat = hs.length + s.plen.toNat := by
    show (BitVec.ofNat 32 (hs.length + s.plen.toNat)).toNat = _
    rw [BitVec.toNat_ofNat, Nat.mod_eq_of_lt (by omega)]
  have hfit : hs.length + s.plen.toNat ≤ Config.fmemSize := by
    show _ ≤ 65536 + 40
    omega
  { hi with
    fmem := Memory.write_wf _ _ _ _ hi.fmem (by simpa using hfit)
    flen := hflen ▸ hfit
    frame := fun a ha => by
      rw [hflen] at ha
      simp [writeFrame, Memory.byteAt_write, ha]
    held := by simp [writeFrame, hr] }

/-- A command whose checks pass writes results that keep the invariant. -/
theorem writeResults_inv {i : Instr} (hc : commandError i s = none) : (writeResults i s).Inv := by
  cases i with
  | nop => exact hi
  | accClear => exact clearAccum_inv hi hr
  | accAdd src => exact accumulate_inv hi hr src
  | accFinal => exact finalise_inv hi hr
  | csum src => exact finalise_inv (accumulate_inv (clearAccum_inv hi hr) hr src) hr
  | buildIp tf => exact writeIpHeader_inv hi hr _
  | buildPseudo => exact writePseudo_inv hi hr
  | buildTcp => exact writePseudo_inv (writeTcpHeader_inv hi hr) hr
  | asmIp => exact writeFrame_inv hi hr (by simp) (plen_le_of_asm (.inl rfl) hc)
  | asmTcp => exact writeFrame_inv hi hr (by simp) (plen_le_of_asm (.inr rfl) hc)

end

/-- No command's results touch STATUS: completion does (R33). -/
@[simp] theorem writeResults_status (i : Instr) (s : State) : (writeResults i s).status = s.status := by
  cases i <;> rfl

theorem exec_inv {i : Instr} {s t : State} (hi : s.Inv) (hb : s.status.busy = true) (h : exec i s = .next t) :
    t.Inv := by
  obtain ⟨c, -, rfl⟩ | ⟨hc, rfl⟩ := exec_next_cases h
  · exact raise_inv hi hb c
  · exact finish_inv (writeResults_inv hi (hi.released_of_busy hb) hc) (by simpa using hb)

theorem engineStep_inv {s t : State} (hi : s.Inv) (hb : s.status.busy = true) (h : engineStep s = .next t) :
    t.Inv := by
  obtain ⟨i, -, he⟩ | ⟨-, rfl⟩ := engineStep_cases s t h
  · exact exec_inv hi hb he
  · exact raise_inv hi hb .illegal

/-! ### The invariant and the host -/

/-- The sticky bus bits are no part of R24's invariants. -/
theorem Status.Ok.of_sticky {st : Status} (h : st.Ok) (be wb : Bool) :
    ({ st with busErr := be, wrBusy := wb } : Status).Ok :=
  { h with }

/-- A write in the memories' range that is no bus error lies above the register region and is aligned, so its last byte
is in the memory its first is in (R74, R75). -/
theorem pmem_write_fits {size : AccessSize} {o : Nat} (he : busError size o = false) (hlo : 0x200 ≤ o)
    (hhi : o < 0x20000) : o - 0x10000 + size.bytes ≤ 0x10000 := by
  by_cases h : o < 0x10000
  · simp [busError, h, show ¬o < 0x200 by omega] at he
  · have ha : o % size.bytes = 0 := by simpa [busError, h, show ¬o < 0x200 by omega] using he
    cases size <;> simp only [AccessSize.bytes] at ha ⊢ <;> omega

@[simp] theorem laneBytes_length (size : AccessSize) (v : Word) : (laneBytes size v).length = size.bytes := by
  cases size <;> rfl

section
variable {s : State} (hi : s.Inv) (hr : s.resetAsserted = false)
include hi hr

/-- No register write reaches CS_PEND, FLEN or a memory; a CMD write issues a command, a STATUS write clears sticky bits
(R22, R32, R235). -/
theorem writeReg_inv (r : Reg) (v : Word) : (writeReg r v s).Inv := by
  cases r with
  | status => exact { hi with status := hi.status.of_sticky _ _, held := by simp [writeReg, hr] }
  | cmd => exact { hi with status := s.status.issued_ok, held := by simp [writeReg, hr] }
  | _ => exact { hi with held := by simp [writeReg, hr] }

theorem busAccess_inv (a : Access) : (busAccess a s).Inv := by
  cases a with
  | read size off =>
    obtain ⟨-, e⟩ | ⟨-, e⟩ := busAccess_read_cases size off s <;> rw [e]
    · exact { hi with status := hi.status.of_sticky _ _, held := by simp [hr] }
    · exact { hi with held := by simp [hr] }
  | write size off v =>
    obtain ⟨-, e⟩ | ⟨-, -, -, e⟩ | ⟨he, -, e⟩ := busAccess_write_cases size off v s <;> rw [e]
    · exact { hi with status := hi.status.of_sticky _ _, held := by simp [hr] }
    · exact { hi with status := hi.status.of_sticky _ _, held := by simp [hr] }
    · obtain ⟨r, -, -, e'⟩ | ⟨hlo, hhi, e'⟩ | e' := busWrite_cases size off.toNat v s <;> rw [e']
      · exact writeReg_inv hi hr r v
      · exact { hi with
          pmem := Memory.write_wf _ _ _ _ hi.pmem (by simpa [Config.pmemSize] using pmem_write_fits he hlo hhi)
          held := by simp [hr] }
      · exact hi

/-- What the model's own fields hold is no part of the invariant while reset is released. -/
theorem State.Inv.with_host (host : List HostEvent) (n : Nat) : State.Inv { s with host := host, latency := n } :=
  { hi with held := by simp [hr] }

theorem hostEvent_inv (e : HostEvent) (rest : List HostEvent) (n : Nat) :
    (hostEvent e rest { s with latency := n }).Inv := by
  cases e with
  | access a => exact busAccess_inv (hi.with_host hr rest n) hr a
  | poll => exact busAccess_inv (hi.with_host hr _ n) hr statusRead
  | assertReset => exact inReset_inv _
  | releaseReset => exact { hi with held := by simp [hostEvent] }

end

/-- A step held in reset ends held in reset, or at the reset values with the input released (R230). -/
theorem heldTurn_inv (s : State) : (heldTurn s).Inv := by
  obtain ⟨rest, -, e⟩ | ⟨-, u, -, e⟩ := heldTurn_cases s <;> rw [e]
  · exact { inReset_inv s with held := by simp }
  · exact inReset_inv u

/-- Settles O4: reset is released after reset, and every clause is met by the empty machine. -/
theorem resetSatisfiesInv : Obligations.ResetSatisfiesInv :=
  { inReset_inv State.reset with held := fun hr => absurd hr (by decide) }

/-- Settles O5, by whose turn the step is: held in reset, the engine's, the host's, or nobody's. -/
theorem stepKeepsInv : Obligations.StepKeepsInv := by
  intro s t hi h
  obtain ⟨-, ⟨-, rfl⟩ | ⟨-, he, hs⟩ | ⟨hr, -, e, rest, -, rfl⟩ | ⟨-, -, -, rfl⟩⟩ := step_cases s t h
  · exact heldTurn_inv s
  · exact engineStep_inv hi ((engineTurn_iff s).1 he).1 hs
  · exact hostEvent_inv hi hr e rest _
  · exact hi

/-! ### What the commands leave alone -/

/-- Settles O32: an error writes STATUS only, and no command's results lie in the host's part of the state. -/
theorem commandsNeverWriteHostState : Obligations.CommandsNeverWriteHostState := by
  intro i s t h
  obtain ⟨c, -, rfl⟩ | ⟨-, rfl⟩ := exec_next_cases h
  · exact ⟨rfl, rfl, rfl, rfl, rfl, rfl, rfl, fun _ => rfl, rfl, rfl⟩
  · cases i <;> exact ⟨rfl, rfl, rfl, rfl, rfl, rfl, rfl, fun _ => rfl, rfl, rfl⟩

/-- Settles O33: an error writes none of the registers, and each command's results lie in its own. -/
theorem commandsWriteOnlyTheirResults : Obligations.CommandsWriteOnlyTheirResults := by
  intro i s t h
  obtain ⟨c, -, rfl⟩ | ⟨-, rfl⟩ := exec_next_cases h
  · simp
  · cases i <;> simp [writeResults, clearAccum, accumulate, finalise, writeIpHeader, writePseudo, writeTcpHeader,
      writeFrame]

/-! ### A step that starts a command -/

/-- A write with size other than 4 to the register region is a bus error (R75). -/
theorem size_eq_word {size : AccessSize} {o : Nat} (he : busError size o = false) (h : o < 0x200) : size = .word := by
  by_contra hs
  simp [busError, h, hs] at he

/-- The one register whose write makes an idle engine busy is CMD (R32). -/
theorem eq_cmd_of_writeReg_busy {r : Reg} {v : Word} {s : State} (hb : s.status.busy = false)
    (h : (writeReg r v s).status.busy = true) : r = .cmd := by
  cases r with
  | cmd => rfl
  | _ => simp [writeReg, hb] at h

/-- The one access that makes an idle engine busy is a 4-byte write at CMD's offset (R32, R74). -/
theorem busAccess_starts {a : Access} {s : State} (hb : s.status.busy = false)
    (h : (busAccess a s).status.busy = true) :
    ∃ v, a = .write .word 0x008 v ∧ (busAccess a s).lcmd = v := by
  cases a with
  | read size off =>
    obtain ⟨-, e⟩ | ⟨-, e⟩ := busAccess_read_cases size off s <;> simp [e, hb] at h
  | write size off v =>
    obtain ⟨-, e⟩ | ⟨-, -, -, e⟩ | ⟨he, -, e⟩ := busAccess_write_cases size off v s
    · simp [e, hb] at h
    · simp [e, hb] at h
    · obtain ⟨r, hr, ho, e'⟩ | ⟨-, -, e'⟩ | e' := busWrite_cases size off.toNat v s <;> rw [e, e'] at h ⊢
      · obtain rfl := eq_cmd_of_writeReg_busy hb h
        have hoff : off = 0x008 := BitVec.eq_of_toNat_eq (offset_of_regAt _ _ hr).symm
        exact ⟨v, by rw [size_eq_word he ho, hoff], rfl⟩
      · simp [hb] at h
      · simp [hb] at h

/-- No step held in reset leaves a command in flight (R230, U7). -/
theorem heldTurn_busy (s : State) : (heldTurn s).status.busy = false := by
  obtain ⟨rest, -, e⟩ | ⟨-, u, -, e⟩ := heldTurn_cases s <;> rw [e] <;> rfl

/-- Settles O14: a step held in reset ends idle, an engine step begins busy, and of the host events only an access starts
a command. -/
theorem onlyCmdWriteStartsCommand : Obligations.OnlyCmdWriteStartsCommand := by
  intro s t h hb ht
  obtain ⟨-, ⟨-, rfl⟩ | ⟨-, he, -⟩ | ⟨hr, -, e, rest, hh, rfl⟩ | ⟨-, -, -, rfl⟩⟩ := step_cases s t h
  · simp [heldTurn_busy] at ht
  · simp [hb] at he
  · refine ⟨hr, ?_⟩
    cases e with
    | access a =>
      obtain ⟨v, rfl, hl⟩ := busAccess_starts (by exact hb) ht
      exact ⟨v, rest, hh, hl⟩
    | poll =>
      obtain ⟨v, ha, -⟩ := busAccess_starts (by exact hb) ht
      simp [statusRead] at ha
    | assertReset => exact absurd ht (by simp [hostEvent, Status.reset])
    | releaseReset => simp [hostEvent, hb] at ht
  · simp [hb] at ht

/-! ### Whose turn it is -/

/-- Settles O11: in the engine's turn a step is the engine's, which runs the command LCMD decodes to. -/
theorem stepRunsDecodedCommand : Obligations.StepRunsDecodedCommand := by
  intro s i hc hr hb hl hd
  have hcode : reservedCode s = false := by simpa [reservedCode] using hc
  have hturn : engineTurn s = true := (engineTurn_iff s).2 ⟨hb, hl⟩
  simp [step, turn, hcode, hr, hturn, engineStep, hd]

/-- Settles O12: with no command due a step is the host's turn, which is its first event or nothing. -/
theorem stepTakesHostAccess : Obligations.StepTakesHostAccess := by
  intro s hc hr
  have hcode : reservedCode s = false := by simpa [reservedCode] using hc
  refine ⟨fun a rest hh hl => ?_, fun hb hh => ?_⟩
  · have hturn : engineTurn s = false := by
      cases hb : s.status.busy with
      | true => simp [engineTurn, hh, (hl hb).ne']
      | false => simp [engineTurn, hb]
    simp [step, turn, hcode, hr, hturn, hostTurn, hh, hostEvent]
  · simp [step, turn, hcode, hr, engineTurn, hb, hostTurn, hh]

/-- Settles O40: what the payload's read returns is what its memory holds. -/
theorem payloadIsPmem : Obligations.PayloadIsPmem := by
  intro s
  refine ⟨payload_length s, fun i b hi hb => ?_⟩
  simp [payload, Memory.read_get _ _ _ _ _ hi, hb]

/-! ### What a register read returns -/

/-- Fields side by side in a word: the higher one counts in units of 2 to the width of the lower. -/
theorem append_toNat {m n : Nat} (x : BitVec m) (y : BitVec n) : (x ++ y).toNat = 2 ^ n * x.toNat + y.toNat := by
  rw [BitVec.toNat_append, ← Nat.shiftLeft_add_eq_or_of_lt y.isLt, Nat.shiftLeft_eq, Nat.mul_comm]

/-- STATUS's bits, as R24 lays them out. -/
theorem Status.toWord_toNat (st : Status) :
    st.toWord.toNat = st.busy.toNat + 2 * st.done.toNat + 4 * st.err.toNat + 8 * st.busErr.toNat +
      16 * st.wrBusy.toNat + 256 * st.errCode.toNat := by
  rw [Status.toWord, BitVec.toNat_setWidth_of_le (by omega)]
  simp only [append_toNat, BitVec.toNat_ofBool, BitVec.ofNat_eq_ofNat, BitVec.toNat_ofNat, Nat.reducePow]
  omega

/-- CTRL's bits, as R23 lays them out. -/
theorem Ctrl.toWord_toNat (c : Ctrl) : c.toWord.toNat = c.ipLenMode.toNat + 2 * c.ipCsumMode.toNat := by
  rw [Ctrl.toWord, BitVec.toNat_setWidth_of_le (by omega), append_toNat, BitVec.toNat_ofBool, BitVec.toNat_ofBool]
  omega

/-- CS_PEND's bits, as R34 lays them out. -/
theorem readReg_csPend_toNat (s : State) : (readReg .csPend s).toNat = 256 * s.cs.pendV.toNat + s.cs.pendB.toNat := by
  rw [readReg, BitVec.toNat_setWidth_of_le (by omega), append_toNat, BitVec.toNat_ofBool]
  rfl

/-- Settles O56: a word that reads as fields side by side is their sum, each at its power of two. -/
theorem statusWordLayout : Obligations.StatusWordLayout := fun s =>
  ⟨s.status.toWord_toNat, readReg_csPend_toNat s, rfl, rfl, BitVec.toNat_setWidth_of_le (by omega), rfl⟩

/-- The registers the host writes: those before the engine-written ones in the map (R74). -/
def hostWritten : List Reg := Reg.all.take 23

/-- The table of the host-written registers is what reads of them return. -/
theorem hostRegisters_eq (s : State) :
    hostRegisters s = hostWritten.map fun r => (r.offset, (readReg r s).toNat) := by
  simp only [hostRegisters, hostWritten, Reg.all, List.take_succ_cons, List.take_zero, List.map_cons, List.map_nil,
    Reg.offset, readReg, Status.toWord_toNat, Ctrl.toWord_toNat, BitVec.toNat_setWidth_of_le, Nat.reduceLeDiff]

/-- The tables of all registers are what reads of them return. -/
theorem registers_eq (s : State) :
    hostRegisters s ++ resultRegisters s = Reg.all.map fun r => (r.offset, (readReg r s).toNat) := by
  have hr : resultRegisters s = (Reg.all.drop 23).map fun r => (r.offset, (readReg r s).toNat) := by
    simp only [resultRegisters, Reg.all, List.drop_succ_cons, List.drop_zero, List.map_cons, List.map_nil, Reg.offset,
      readReg_csPend_toNat, Nat.add_comm]
    simp only [readReg, BitVec.toNat_setWidth_of_le, Nat.reduceLeDiff]
  rw [hostRegisters_eq, hr, hostWritten, ← List.map_append, List.take_append_drop]

/-- After reset every register reads 0 (R40). -/
theorem readReg_reset (r : Reg) : readReg r State.reset = 0 := by
  cases r <;> rfl

/-- Settles O1: the tables of registers are what reads return, and every read of the reset state returns 0. -/
theorem resetLeavesZeroRegisters : Obligations.ResetLeavesZeroRegisters := by
  refine ⟨⟨fun p hp => ?_, by decide, fun _ => ⟨rfl, rfl⟩, rfl⟩, fun r _ => readReg_reset r⟩
  rw [registers_eq] at hp
  obtain ⟨r, -, rfl⟩ := List.mem_map.1 hp
  simp [readReg_reset]

/-! ### A host access to a register's offset -/

@[simp] theorem Reg.offset_toNat (r : Reg) : (BitVec.ofNat 18 r.offset).toNat = r.offset := by
  cases r <;> rfl

theorem Reg.offset_lt (r : Reg) : r.offset < 0x80 := by
  cases r <;> decide

@[simp] theorem busError_reg (r : Reg) : busError .word r.offset = false := by
  cases r <;> rfl

/-- A 4-byte write at a register's offset writes that register when it is not dropped (R22, R236). -/
theorem busAccess_write_reg (r : Reg) (v : Word) (s : State) (h : s.status.busy = false ∨ r = .status) :
    busAccess (.write .word (BitVec.ofNat 18 r.offset) v) s = writeReg r v s := by
  have hk : (s.status.busy && r.offset != Reg.status.offset) = false := by
    obtain hb | rfl := h
    · simp [hb]
    · simp
  have ho : r.offset < 0x200 := by have := r.offset_lt; omega
  simp only [busAccess, Reg.offset_toNat, busError_reg, hk, busWrite, ho, regAt_offset, Bool.false_eq_true, if_true,
    if_false]

/-- A 4-byte read at a register's offset while idle returns that register (R22). -/
theorem busAccess_read_reg (r : Reg) (s : State) (hb : s.status.busy = false) :
    (busAccess (.read .word (BitVec.ofNat 18 r.offset)) s).rdata = readReg r s := by
  have ho : r.offset < 0x200 := by have := r.offset_lt; omega
  have hd : busRead .word r.offset s = (readReg r s, 0) := by
    cases hm : busyMask r <;> simp [busRead, ho, hb, hm]
  simp only [busAccess, Reg.offset_toNat, busError_reg, hd, Bool.false_eq_true, if_false]

/-- Settles O47: STATUS takes the write BUSY or not, and keeps every bit but the two sticky ones. -/
theorem statusWriteClearsStickyBits : Obligations.StatusWriteClearsStickyBits := by
  intro v s
  refine ⟨writeReg .status v s, busAccess_write_reg .status v s (.inr rfl), ?_, ?_, rfl⟩ <;> simp [writeReg]

/-- Settles O48: an accepted CMD write is `issue`. -/
theorem cmdWriteIssues : Obligations.CmdWriteIssues := fun v s hb =>
  ⟨issue v s, busAccess_write_reg .cmd v s (.inl hb), rfl, rfl, rfl⟩

/-! ### Read-write registers -/

/-- The read-write registers: the host-written ones but STATUS and CMD (R22). -/
def readWrite : List Reg := hostWritten.filter fun r => r != .status && r != .cmd

/-- The width of a read-write register's field, in the bits the tables give it (R23, R26, R29, R31). -/
def fieldWidth : Reg → Nat
  | .ctrl => 2
  | .tcpRsv => 4
  | .ipTos | .ipTtl | .ipProto | .tcpFlags => 8
  | .ipTotLen | .ipId | .ipFrag | .ipCsum | .tcpSport | .tcpDport | .tcpWin | .tcpUrg => 16
  | _ => 32

/-- CTRL keeps bits 1:0 of a write (R23). -/
theorem Ctrl.ofWord_toWord_toNat (v : Word) : (Ctrl.ofWord v).toWord.toNat = v.toNat % 2 ^ 2 := by
  simp only [Ctrl.toWord_toNat, Ctrl.ofWord, BitVec.getLsbD, Nat.toNat_testBit]
  omega

/-- A read-write register holds the written bits of its field (R22). -/
theorem readReg_writeReg_same {r : Reg} (hr : r ∈ readWrite) (v : Word) (s : State) :
    (readReg r (writeReg r v s)).toNat = v.toNat % 2 ^ fieldWidth r := by
  cases r with
  | ctrl => exact Ctrl.ofWord_toWord_toNat v
  | status | cmd | csAcc | csPend | csResult | flen => exact absurd hr (by decide)
  | ipSrc | ipDst | tcpSeq | tcpAck | plen | csOff | csLen => exact (Nat.mod_eq_of_lt v.isLt).symm
  | _ =>
    simp only [readReg, writeReg, fieldWidth, BitVec.toNat_setWidth]
    omega

/-- A read-write register's write is no other register's: their fields are disjoint parts of the state. -/
theorem readReg_writeReg_ne {r q : Reg} (hr : r ∈ readWrite) (hq : q ≠ r) (v : Word) (s : State) :
    readReg q (writeReg r v s) = readReg q s := by
  cases r <;> cases q <;> first | rfl | exact absurd rfl hq | exact absurd hr (by decide)

theorem writeReg_status {r : Reg} (hr : r ∈ readWrite) (v : Word) (s : State) :
    (writeReg r v s).status = s.status := by
  cases r with
  | status | cmd => exact absurd hr (by decide)
  | _ => rfl

/-- No register write reaches a memory or a built header (R35, R37, R38). -/
theorem writeReg_frame (r : Reg) (v : Word) (s : State) :
    (writeReg r v s).pmem = s.pmem ∧ (writeReg r v s).fmem = s.fmem ∧ (writeReg r v s).iph = s.iph ∧
      (writeReg r v s).tcph = s.tcph ∧ (writeReg r v s).psh = s.psh := by
  cases r <;> exact ⟨rfl, rfl, rfl, rfl, rfl⟩

/-- No two registers share an offset (R74). -/
theorem Reg.offset_injective {r q : Reg} (h : r.offset = q.offset) : r = q := by
  have hr := regAt_offset r
  rw [h, regAt_offset] at hr
  exact (Option.some.inj hr).symm

theorem mem_hostWritten_of_readWrite {r : Reg} (hr : r ∈ readWrite) : r ∈ hostWritten :=
  (List.mem_filter.1 hr).1

/-- Settles O49: the listed places are the read-write registers at their widths, the tables are what reads return, and a
write of one register is seen by reads of that register only. -/
theorem registerWriteReadsBack : Obligations.RegisterWriteReadsBack := by
  intro o width v s hb hmem
  obtain ⟨r, hr, hrw⟩ : ∃ r ∈ readWrite, (r.offset, fieldWidth r) = (o, width) := List.mem_map.1 hmem
  obtain ⟨rfl, rfl⟩ := Prod.mk.inj hrw
  have hst := writeReg_status hr v s
  have hsame := readReg_writeReg_same hr v s
  obtain ⟨hpmem, hfmem, hiph, htcph, hpsh⟩ := writeReg_frame r v s
  refine ⟨writeReg r v s, busAccess_write_reg r v s (.inl hb), ?_, ?_, ?_, hpmem, hfmem, hiph, htcph, hpsh, hst⟩
  · rw [hostRegisters_eq, ← hsame]
    exact List.mem_map_of_mem (mem_hostWritten_of_readWrite hr)
  · rw [busAccess_read_reg r _ (hst ▸ hb), hsame]
  · intro p hp hpo
    rw [registers_eq] at hp ⊢
    obtain ⟨q, hq, rfl⟩ := List.mem_map.1 hp
    have hqr : q ≠ r := fun h => hpo (congrArg Reg.offset h)
    exact List.mem_map.2 ⟨q, hq, by rw [readReg_writeReg_ne hr hqr]⟩

/-! ### Places no write reaches -/

/-- An aligned access at or above the memories' base is no bus error (R75). -/
theorem busError_of_memory {size : AccessSize} {o : Nat} (ho : 0x10000 ≤ o) (ha : o % size.bytes = 0) :
    busError size o = false := by
  simp [busError, ha, show ¬o < 0x200 by omega, show ¬o < 0x10000 by omega]

/-- An aligned 4-byte access to the register region is no bus error (R75). -/
theorem busError_of_register {o : Nat} (ho : o < 0x200) (ha : o % 4 = 0) : busError .word o = false := by
  simp [busError, ho, ha]

/-- Beyond the last register's offset no offset names a register (R74). -/
theorem regAt_eq_none {o : Nat} (ho : 0x080 ≤ o) : regAt o = none := by
  cases h : regAt o with
  | none => rfl
  | some r => exact absurd (offset_of_regAt o r h) (by have := r.offset_lt; omega)

/-- A write while idle that is no bus error does what its place does with it. -/
theorem busAccess_write_idle {size : AccessSize} {off : BitVec 18} (v : Word) {s : State} (hb : s.status.busy = false)
    (he : busError size off.toNat = false) :
    busAccess (.write size off v) s = busWrite size off.toNat v s := by
  simp [busAccess, hb, he]

/-- At the listed offsets stands a reserved word or an engine-written register, and neither takes a write (R74). -/
theorem busWrite_readOnly {o : Nat} (v : Word) (s : State)
    (ho : o ∈ [0x00C, 0x034, 0x038, 0x03C, 0x06C, 0x070, 0x074, 0x078, 0x07C]) : busWrite .word o v s = s := by
  fin_cases ho <;> rfl

/-- Settles O50: the access is no bus error, and its place, by its range, takes no write. -/
theorem readOnlyWritesAreIgnored : Obligations.ReadOnlyWritesAreIgnored := by
  rintro size off v s hb ha (⟨rfl, hlist⟩ | ⟨rfl, hlo, hhi⟩ | hmem)
  · have ho : off.toNat < 0x200 := by
      simp only [List.mem_cons, List.not_mem_nil, or_false] at hlist
      omega
    rw [busAccess_write_idle v hb (busError_of_register ho ha), busWrite_readOnly v s hlist]
  · rw [busAccess_write_idle v hb (busError_of_register hhi ha)]
    simp [busWrite, hhi, regAt_eq_none hlo]
  · rw [busAccess_write_idle v hb (busError_of_memory (by omega) ha)]
    simp [busWrite, show ¬off.toNat < 0x200 by omega, show ¬off.toNat < 0x20000 by omega]

end Sys2Proof.Machine

namespace Sys2Proof.Machine

/-! ### Bus errors -/

/-- The three causes of a bus error (R77, R75), with the alignment rule taken to hold at every offset (log entry 7). -/
theorem busError_iff (size : AccessSize) (o : Nat) :
    busError size o = true ↔
      (0x200 ≤ o ∧ o < 0x10000) ∨ (o < 0x200 ∧ size.bytes ≠ 4) ∨ o % size.bytes ≠ 0 := by
  unfold busError
  split_ifs with hreg hgap
  · cases size <;> simp [AccessSize.bytes, hreg, show ¬0x200 ≤ o by omega]
  · simp [hgap, show 0x200 ≤ o by omega]
  · simp [hgap, hreg]

/-- A bus error returns 0 or drops the write, sets BUSERR and leaves the rest of the state alone (R77). -/
theorem busAccess_of_busError {size : AccessSize} {off : BitVec 18} (v : Word) (s : State)
    (he : busError size off.toNat = true) :
    busAccess (.read size off) s = { s with rdata := 0, status := s.status.markBusErr } ∧
      busAccess (.write size off v) s = { s with status := s.status.markBusErr } := by
  simp [busAccess, he]

/-- Settles O44: each listed access has one of the three causes. -/
theorem busErrorEffect : Obligations.BusErrorEffect := by
  intro size off v s h
  have hcause := h.imp_right (Or.imp_right And.right)
  exact busAccess_of_busError v s ((busError_iff _ _).2 hcause)

/-- Settles O45: misalignment is a cause at every offset. -/
theorem misalignedBeyondFmemIsBusError : Obligations.MisalignedBeyondFmemIsBusError := fun _ _ v s _ ha =>
  busAccess_of_busError v s ((busError_iff _ _).2 (.inr (.inr ha)))

/-! ### Big-endian lanes -/

theorem AccessSize.bytes_le_four (size : AccessSize) : size.bytes ≤ 4 := by
  cases size <;> decide

/-- One byte shifted in below a value of at most three bytes (R72). -/
theorem lane_step_toNat (w : Word) (b : Byte) (hw : w.toNat < 2 ^ 24) :
    ((w <<< 8) ||| b.setWidth 32).toNat = 256 * w.toNat + b.toNat := by
  have hshift : (w <<< 8).toNat = w.toNat <<< 8 := by
    rw [BitVec.toNat_shiftLeft, Nat.mod_eq_of_lt]
    rw [Nat.shiftLeft_eq]
    omega
  rw [BitVec.toNat_or, hshift, BitVec.toNat_setWidth_of_le (by omega), ← Nat.shiftLeft_add_eq_or_of_lt b.isLt,
    Nat.shiftLeft_eq, Nat.mul_comm]

/-- Bytes shifted in below a value are its big-endian continuation while all of it fits in 32 bits. -/
theorem lane_foldl_toNat (bs : List Byte) (w : Word) (h : (w.toNat + 1) * 256 ^ bs.length ≤ 2 ^ 32) :
    (bs.foldl (fun (u : Word) b => (u <<< 8) ||| b.setWidth 32) w).toNat =
      bs.foldl (fun n b => 256 * n + b.toNat) w.toNat := by
  induction bs generalizing w with
  | nil => rfl
  | cons b bs ih =>
    rw [List.length_cons, Nat.pow_succ'] at h
    have hpos : 1 ≤ 256 ^ bs.length := Nat.one_le_pow _ _ (by omega)
    have hw : w.toNat < 2 ^ 24 := by nlinarith
    have hstep := lane_step_toNat w b hw
    have hfit : (256 * w.toNat + b.toNat + 1) * 256 ^ bs.length ≤ 2 ^ 32 := calc
      _ ≤ ((w.toNat + 1) * 256) * 256 ^ bs.length := Nat.mul_le_mul_right _ (by have := b.isLt; omega)
      _ ≤ 2 ^ 32 := by rwa [Nat.mul_assoc]
    rw [List.foldl_cons, List.foldl_cons, ih _ (by rwa [hstep]), hstep]

/-- The lanes of at most four bytes are their big-endian value, with 0 above (R72). -/
theorem laneWord_toNat (bs : List Byte) (h : bs.length ≤ 4) :
    (laneWord bs).toNat = bs.foldl (fun n b => 256 * n + b.toNat) 0 :=
  lane_foldl_toNat bs 0 (by simpa using Nat.pow_le_pow_right (n := 256) (by omega) h)

/-- The bytes of a word, most significant first (R10). -/
theorem be32_get (v : Word) {i : Nat} (h : i < 4) : (be32 v)[i]? = some (v.extractLsb' (8 * (3 - i)) 8) := by
  interval_cases i <;> rfl

/-- The bytes a write moves are the low bytes of its data, most significant first (R72). -/
theorem laneBytes_get (size : AccessSize) (v : Word) {i : Nat} (h : i < size.bytes) :
    (laneBytes size v)[i]? = some (v.extractLsb' (8 * (size.bytes - 1 - i)) 8) := by
  have := size.bytes_le_four
  rw [laneBytes, List.getElem?_drop, be32_get v (by omega), show 3 - (4 - size.bytes + i) = size.bytes - 1 - i by omega]

/-- A byte of a word is a digit of it in base 256. -/
theorem extractByte_toNat (v : Word) (k : Nat) : (v.extractLsb' (8 * k) 8).toNat = v.toNat / 256 ^ k % 256 := by
  rw [BitVec.extractLsb'_toNat, Nat.shiftRight_eq_div_pow, Nat.pow_mul]

/-! ### Memory accesses -/

/-- An idle aligned write in PMEM's range is a write of that memory (R74). -/
theorem busAccess_write_pmem {size : AccessSize} {off : BitVec 18} (v : Word) {s : State} (hb : s.status.busy = false)
    (ha : off.toNat % size.bytes = 0) (hlo : 0x10000 ≤ off.toNat) (hhi : off.toNat < 0x20000) :
    busAccess (.write size off v) s =
      { s with pmem := Memory.write s.pmem (off.toNat - 0x10000) (laneBytes size v) } := by
  rw [busAccess_write_idle v hb (busError_of_memory hlo ha)]
  simp [busWrite, hhi, show ¬off.toNat < 0x200 by omega]

/-- Settles O51: the bytes are the data's, and a memory write touches only the range it is given. -/
theorem pmemWriteMovesBytes : Obligations.PmemWriteMovesBytes := by
  intro size off v s hb ha hlo hhi
  refine ⟨_, busAccess_write_pmem v hb ha hlo hhi, fun i hi => ?_, fun a hout => ?_, rfl⟩
  · refine ⟨v.extractLsb' (8 * (size.bytes - 1 - i)) 8, ?_, extractByte_toNat v _⟩
    rw [Memory.byteAt_write, laneBytes_length, if_pos (by omega), Nat.add_sub_cancel_left, laneBytes_get size v hi]
  · rw [Memory.byteAt_write, laneBytes_length, if_neg (by omega)]

/-- A read whose bytes have all been written returns them (R39). -/
theorem Memory.read_of_written {m : Memory} {a : Nat} {bs : List Byte} (k : Nat)
    (h : ∀ i, i < bs.length → Memory.byteAt m (a + i) = bs[i]?) : Memory.read m a bs.length k = bs := by
  refine List.ext_getElem (Memory.read_length ..) fun i _ hi => ?_
  simp [Memory.read, h i hi, hi]

/-- A read that is no bus error returns what its place holds (R74, R76). -/
theorem busAccess_read_ok {size : AccessSize} {off : BitVec 18} (s : State) (he : busError size off.toNat = false) :
    busAccess (.read size off) s =
      { s with rdata := (busRead size off.toNat s).1, draws := s.draws + (busRead size off.toNat s).2 } := by
  simp [busAccess, he]

/-- A read in PMEM's range reads that memory, BUSY or not (R74, R81). -/
theorem busRead_pmem (size : AccessSize) {o : Nat} (s : State) (hlo : 0x10000 ≤ o) (hhi : o < 0x20000) :
    busRead size o s = (laneWord (Memory.read s.pmem (o - 0x10000) size.bytes s.draws), size.bytes) := by
  simp [busRead, hhi, show ¬o < 0x200 by omega]

/-- An idle read in FMEM's range reads that memory (R74). -/
theorem busRead_fmem (size : AccessSize) {o : Nat} {s : State} (hb : s.status.busy = false) (hlo : 0x20000 ≤ o)
    (hhi : o < 0x30028) :
    busRead size o s = (laneWord (Memory.read s.fmem (o - 0x20000) size.bytes s.draws), size.bytes) := by
  have hsize : o < 0x20000 + Config.fmemSize := hhi
  simp [busRead, hb, hsize, show ¬o < 0x200 by omega, show ¬o < 0x20000 by omega]

/-- Beyond FMEM a read returns 0, BUSY or not (R74, R81). -/
theorem busRead_beyond (size : AccessSize) {o : Nat} (s : State) (hlo : 0x30028 ≤ o) : busRead size o s = (0, 0) := by
  have hsize : ¬o < 0x20000 + Config.fmemSize := Nat.not_lt.2 hlo
  simp [busRead, hsize, show ¬o < 0x200 by omega, show ¬o < 0x20000 by omega]

/-- Settles O52: either range reads its memory, which returns the written bytes, and the lanes are big-endian. -/
theorem memoryReadIsBigEndian : Obligations.MemoryReadIsBigEndian := by
  intro size off s bs m base ha hplace hlen hbs
  have hread : (busRead size off.toNat s).1 = laneWord (Memory.read m (off.toNat - base) size.bytes s.draws) := by
    obtain ⟨hlo, hhi, rfl, rfl⟩ | ⟨hb, hlo, hhi, rfl, rfl⟩ := hplace
    · rw [busRead_pmem size s hlo hhi]
    · rw [busRead_fmem size hb hlo hhi]
  have hok : busError size off.toNat = false := busError_of_memory (by omega) ha
  rw [← hlen] at hread hbs
  rw [Memory.read_of_written _ hbs] at hread
  simp only [busAccess_read_ok s hok, hread]
  exact laneWord_toNat bs (hlen ▸ size.bytes_le_four)

/-! ### Register-region reads -/

/-- A read at a register's offset returns that register and takes no draw, while idle or where BUSY makes none of it
(R22, R81). -/
theorem busRead_reg (size : AccessSize) {r : Reg} {s : State} (h : s.status.busy = false ∨ busyMask r = none) :
    busRead size r.offset s = (readReg r s, 0) := by
  have ho : r.offset < 0x200 := by have := r.offset_lt; omega
  obtain hb | hm := h
  · cases hm : busyMask r <;> simp [busRead, ho, hb, hm]
  · simp [busRead, ho, hm]

/-- An idle read of a word that is no register returns its window's bytes, or 0 outside the windows (R74). -/
theorem busRead_window (size : AccessSize) {o : Nat} {s : State} (hb : s.status.busy = false) (ho : o < 0x200)
    (hr : regAt o = none) : busRead size o s = ((windowAt o s).getD 0, 0) := by
  cases hw : windowAt o s <;> simp [busRead, ho, hr, hw, hb]

/-- A read of a reserved word returns 0, BUSY or not (R74, R81). -/
theorem busRead_reserved (size : AccessSize) {o : Nat} {s : State} (ho : o < 0x200) (hr : regAt o = none)
    (hw : windowAt o s = none) : busRead size o s = (0, 0) := by
  simp [busRead, ho, hr, hw]

/-- A 4-byte read at a register's offset, while idle or where BUSY makes no draw of it, changes the host's data only. -/
theorem busAccess_read_reg_eq {r : Reg} {s : State} (h : s.status.busy = false ∨ busyMask r = none) :
    busAccess (.read .word (BitVec.ofNat 18 r.offset)) s = { s with rdata := readReg r s } := by
  rw [busAccess_read_ok s (by rw [Reg.offset_toNat]; exact busError_reg r), Reg.offset_toNat, busRead_reg .word h]
  rfl

/-- No host-written register becomes a draw while BUSY (R81). -/
theorem busyMask_of_hostWritten : ∀ r ∈ hostWritten, busyMask r = none := by decide

/-- Settles O55: an entry of the tables is a register with what a read of it returns. -/
theorem registerReadsReturnTheirValue : Obligations.RegisterReadsReturnTheirValue := by
  intro o n s h
  obtain ⟨r, hr, he⟩ : ∃ r, (s.status.busy = false ∨ busyMask r = none) ∧ (r.offset, (readReg r s).toNat) = (o, n) := by
    obtain hhost | ⟨hb, hresult⟩ := h
    · rw [hostRegisters_eq] at hhost
      obtain ⟨r, hr, he⟩ := List.mem_map.1 hhost
      exact ⟨r, .inr (busyMask_of_hostWritten r hr), he⟩
    · have hmem := List.mem_append_right (hostRegisters s) hresult
      rw [registers_eq] at hmem
      obtain ⟨r, -, he⟩ := List.mem_map.1 hmem
      exact ⟨r, .inl hb, he⟩
  obtain ⟨rfl, rfl⟩ := Prod.mk.inj he
  rw [busAccess_read_reg_eq hr]
  exact ⟨rfl, rfl⟩

/-- No register holds the host's data or the draw counter. -/
theorem readReg_with_rdata (r : Reg) (s : State) (d : Word) (n : Nat) :
    readReg r { s with rdata := d, draws := n } = readReg r s := by
  cases r <;> rfl

/-- An idle register-region read depends on neither the host's data nor the draw counter (R76). -/
theorem busRead_register_with_rdata (size : AccessSize) {o : Nat} {s : State} (hb : s.status.busy = false)
    (ho : o < 0x200) (d : Word) (n : Nat) :
    busRead size o { s with rdata := d, draws := n } = busRead size o s := by
  have hb' : ({ s with rdata := d, draws := n } : State).status.busy = false := hb
  cases hr : regAt o with
  | some r =>
    obtain rfl := offset_of_regAt o r hr
    rw [busRead_reg size (.inl hb), busRead_reg size (.inl hb'), readReg_with_rdata]
  | none =>
    rw [busRead_window size hb ho hr, busRead_window size hb' ho hr]
    rfl

/-- Settles O54: a read writes the host's data and the draw counter only, and an idle register read depends on
neither. -/
theorem readsHaveNoSideEffects : Obligations.ReadsHaveNoSideEffects := by
  intro size off s he
  refine ⟨⟨_, busAccess_read_ok s he, rfl⟩, fun hb ho => ?_⟩
  simp only [busAccess_read_ok _ he, busRead_register_with_rdata size hb ho]

/-! ### Header windows -/

/-- Four bytes of a built header in the lanes of a word (R72). -/
theorem laneWord_header_toNat {n : Nat} (hdr : Vector Byte n) (k : Nat) (h : k + 3 < n) :
    (laneWord ((hdr.toList.drop k).take 4)).toNat =
      2 ^ 16 * pair hdr[k] hdr[k + 1] + pair hdr[k + 2] hdr[k + 3] := by
  have hfour : (hdr.toList.drop k).take 4 = [hdr[k], hdr[k + 1], hdr[k + 2], hdr[k + 3]] := by
    refine List.ext_getElem (by simp; omega) fun i _ hi => ?_
    simp only [List.length_cons, List.length_nil] at hi
    interval_cases i <;> simp
  rw [hfour, laneWord_toNat _ (by simp)]
  simp only [List.foldl_cons, List.foldl_nil, pair]
  omega

/-- A 4-byte aligned read in the register region returns what its word holds. -/
theorem busAccess_read_word_rdata {o : Nat} (s : State) (ho : o < 0x200) (ha : o % 4 = 0) :
    (busAccess (.read .word (BitVec.ofNat 18 o)) s).rdata = (busRead .word o s).1 := by
  have hoff : (BitVec.ofNat 18 o).toNat = o := by
    rw [BitVec.toNat_ofNat]
    omega
  rw [busAccess_read_ok s (by rw [hoff]; exact busError_of_register ho ha), hoff]

/-- An idle 4-byte read in a header's window returns four of its bytes, the first most significant (R72, R74). -/
theorem busAccess_read_window {n o k : Nat} {hdr : Vector Byte n} {s : State} (hb : s.status.busy = false)
    (hlo : 0x80 ≤ o) (hhi : o < 0x200) (ha : o % 4 = 0) (hk : k + 3 < n)
    (hw : windowAt o s = some (laneWord ((hdr.toList.drop k).take 4))) :
    (busAccess (.read .word (BitVec.ofNat 18 o)) s).rdata.toNat =
      2 ^ 16 * pair hdr[k] hdr[k + 1] + pair hdr[k + 2] hdr[k + 3] := by
  rw [busAccess_read_word_rdata s hhi ha, busRead_window .word hb hhi (regAt_eq_none hlo), hw]
  exact laneWord_header_toNat hdr k hk

theorem windowAt_psh {k : Nat} (s : State) (h : k < 12) :
    windowAt (0x100 + k) s = some (laneWord ((s.psh.toList.drop k).take 4)) := by
  rw [windowAt, if_pos (by omega), Nat.add_sub_cancel_left]

theorem windowAt_iph {k : Nat} (s : State) (h : k < 20) :
    windowAt (0x110 + k) s = some (laneWord ((s.iph.toList.drop k).take 4)) := by
  rw [windowAt, if_neg (by omega), if_pos (by omega), Nat.add_sub_cancel_left]

theorem windowAt_tcph {k : Nat} (s : State) (h : k < 20) :
    windowAt (0x130 + k) s = some (laneWord ((s.tcph.toList.drop k).take 4)) := by
  rw [windowAt, if_neg (by omega), if_neg (by omega), if_pos (by omega), Nat.add_sub_cancel_left]

/-- The reserved words of the register region (R74): no register stands there, and no window. -/
theorem reserved_word {o : Nat} (s : State)
    (h : o ∈ [0x00C, 0x034, 0x038, 0x03C, 0x06C, 0x10C, 0x124, 0x128, 0x12C] ∨ (0x080 ≤ o ∧ o < 0x100) ∨
      (0x144 ≤ o ∧ o < 0x200)) : o < 0x200 ∧ regAt o = none ∧ windowAt o s = none := by
  have hreg : regAt o = none := by
    obtain hlist | ⟨hlo, -⟩ | ⟨hlo, -⟩ := h
    · fin_cases hlist <;> rfl
    · exact regAt_eq_none hlo
    · exact regAt_eq_none (by omega)
  simp only [List.mem_cons, List.not_mem_nil, or_false] at h
  refine ⟨by omega, hreg, ?_⟩
  rw [windowAt, if_neg (by omega), if_neg (by omega), if_neg (by omega)]

/-- Settles O53: a window's word is four bytes of its header; a reserved word and the range beyond FMEM read 0. -/
theorem windowsShowBuiltHeaders : Obligations.WindowsShowBuiltHeaders := by
  intro s
  refine ⟨fun hb => ⟨fun j h => ?_, fun j h => ?_, fun j h => ?_⟩, fun o ha h => ?_, fun size off ha hlo => ?_⟩
  · exact busAccess_read_window hb (by omega) (by omega) (by omega) (by omega) (windowAt_iph s (by omega))
  · exact busAccess_read_window hb (by omega) (by omega) (by omega) (by omega) (windowAt_tcph s (by omega))
  · exact busAccess_read_window hb (by omega) (by omega) (by omega) (by omega) (windowAt_psh s (by omega))
  · obtain ⟨ho, hr, hw⟩ := reserved_word s h
    rw [busAccess_read_word_rdata s ho ha, busRead_reserved .word ho hr hw]
  · have hok : busError size off.toNat = false := busError_of_memory (by omega) ha
    simp only [busAccess_read_ok s hok, busRead_beyond size s hlo]

end Sys2Proof.Machine

namespace Sys2Proof

/-! ### The fields of a word and the word of fields (R90) -/

/-- The word that carries some fields, as R90 lays them out: OP from bit 0, SRC from 8, T at 12, RSVD from 13. -/
theorem CommandFields.toWord_toNat (f : CommandFields) :
    f.toWord.toNat = f.op.toNat + 2 ^ 8 * f.src.toNat + 2 ^ 12 * f.t.toNat + 2 ^ 13 * f.rsvd.toNat := by
  simp only [toWord, Machine.append_toNat, BitVec.toNat_ofBool]
  omega

/-- The fields of a word, on plain numbers: its digits at bits 0, 8, 12 and 13 (R90). -/
theorem fieldsOf_eq_iff (w : Word) (f : CommandFields) :
    fieldsOf w = f ↔ w.toNat % 2 ^ 8 = f.op.toNat ∧ w.toNat / 2 ^ 8 % 2 ^ 4 = f.src.toNat ∧
      w.toNat / 2 ^ 12 % 2 = f.t.toNat ∧ w.toNat / 2 ^ 13 % 2 ^ 19 = f.rsvd.toNat := by
  obtain ⟨op, src, t, rsvd⟩ := f
  have ht (b : Bool) : b = t ↔ b.toNat = t.toNat := by cases b <;> cases t <;> decide
  simp only [fieldsOf, CommandFields.mk.injEq, ← BitVec.toNat_inj, ht, BitVec.extractLsb'_toNat, BitVec.getLsbD,
    Nat.toNat_testBit, Nat.shiftRight_eq_div_pow, Nat.pow_zero, Nat.div_one]

/-- `fieldsOf` and `toWord` are inverse: the four fields are all of a word's 32 bits. -/
theorem fieldsOf_eq_iff_toWord (w : Word) (f : CommandFields) : fieldsOf w = f ↔ f.toWord = w := by
  have ht := f.t.toNat_lt
  rw [fieldsOf_eq_iff, ← BitVec.toNat_inj, f.toWord_toNat]
  omega

/-! ### What each part of the decoder accepts -/

theorem srcOfCode_eq_some (c : BitVec 4) (src : Src) : srcOfCode c = some src ↔ src.code = c := by
  revert c; cases src <;> decide

/-- The values 0..4 of SRC are the codes of the five memories (R93). -/
theorem exists_src_code {c : BitVec 4} (h : c.toNat ≤ 4) : ∃ src : Src, src.code = c := by
  have hsome : ∀ c : BitVec 4, c.toNat ≤ 4 → (srcOfCode c).isSome = true := by decide
  obtain ⟨src, hs⟩ := Option.isSome_iff_exists.1 (hsome c h)
  exact ⟨src, (srcOfCode_eq_some c src).1 hs⟩

/-- Fields accepted without SRC and T are the command's own. -/
theorem decodePlain_fields {f : CommandFields} {i j : Instr} (h : decodePlain f i = .ok j)
    (hi : i.fields = { f with src := 0, t := false }) : j.fields = f := by
  unfold decodePlain at h
  split_ifs at h with hs ht
  obtain rfl := Except.ok.inj h
  rw [hi, ← not_not.1 hs, ← Bool.eq_false_of_not_eq_true ht]

/-- Fields accepted with a source memory are the command's own. -/
theorem decodeSourced_fields {f : CommandFields} {mk : Src → Instr} {j : Instr} (h : decodeSourced f mk = .ok j)
    (hmk : ∀ src, (mk src).fields = { f with src := src.code, t := false }) : j.fields = f := by
  unfold decodeSourced at h
  split_ifs at h with ht
  cases hs : srcOfCode f.src with
  | none => simp [hs] at h
  | some src =>
    obtain rfl : mk src = j := by simpa [hs] using h
    rw [hmk, (srcOfCode_eq_some _ _).1 hs, ← Bool.eq_false_of_not_eq_true ht]

/-- Fields accepted with a transport flag are BUILD_IP's own. -/
theorem decodeTransport_fields {f : CommandFields} {j : Instr} (h : decodeTransport f = .ok j)
    (hi : (Instr.buildIp f.t).fields = { f with src := 0 }) : j.fields = f := by
  unfold decodeTransport at h
  split_ifs at h with hs
  obtain rfl := Except.ok.inj h
  rw [hi, ← not_not.1 hs]

theorem decodeFields_fields (i : Instr) : decodeFields i.fields = .ok i := by
  cases i with
  | accAdd src | csum src => cases src <;> rfl
  | _ => rfl

/-- No field is dropped: what decodes to a command is that command's fields. -/
theorem fields_of_decodeFields {f : CommandFields} {i : Instr} (h : decodeFields f = .ok i) : i.fields = f := by
  obtain ⟨op, src, t, rsvd⟩ := f
  have hop : BitVec.ofNat 8 op.toNat = op := by simp
  simp only [decodeFields] at h
  split_ifs at h with hr
  obtain rfl : rsvd = 0 := not_not.1 hr
  split at h
  case h_1 ho | h_2 ho | h_4 ho | h_7 ho | h_8 ho | h_9 ho | h_10 ho =>
    rw [ho] at hop; subst hop; exact decodePlain_fields h rfl
  case h_3 ho | h_5 ho => rw [ho] at hop; subst hop; exact decodeSourced_fields h fun _ => rfl
  case h_6 ho => rw [ho] at hop; subst hop; exact decodeTransport_fields h rfl
  case h_11 => cases h

/-- A word decodes to a command exactly when its fields are that command's (R91, R92). -/
theorem decode_eq_ok_iff (w : Word) (i : Instr) : decode w = .ok i ↔ fieldsOf w = i.fields :=
  ⟨fun h => (fields_of_decodeFields h).symm, fun h => by rw [decode, h, decodeFields_fields]⟩

/-- Settles O7: both sides say that the word's fields are the command's. -/
theorem decodeAndEncodeAgree : Obligations.DecodeAndEncodeAgree := fun w i =>
  (decode_eq_ok_iff w i).trans (fieldsOf_eq_iff_toWord w i.fields)

theorem decode_encode (i : Instr) : decode (encode i) = .ok i := (decodeAndEncodeAgree _ i).2 rfl

/-- Settles O10: the words are literals, each a closed evaluation of the decoder. -/
theorem listedWordsDecode : Obligations.ListedWordsDecode := by
  unfold Obligations.ListedWordsDecode
  decide

/-! ### R92's `legal` -/

theorem Instr.fields_wellFormed (i : Instr) : i.fields.wellFormed = true := by
  cases i with
  | nop => exact Laws.EncodesLegal.nop
  | accClear => exact Laws.EncodesLegal.accClear
  | accAdd src => exact Laws.EncodesLegal.accAdd src
  | accFinal => exact Laws.EncodesLegal.accFinal
  | csum src => exact Laws.EncodesLegal.csum src
  | buildIp t => exact Laws.EncodesLegal.buildIp t
  | buildPseudo => exact Laws.EncodesLegal.buildPseudo
  | buildTcp => exact Laws.EncodesLegal.buildTcp
  | asmIp => exact Laws.EncodesLegal.asmIp
  | asmTcp => exact Laws.EncodesLegal.asmTcp

/-- With every other field 0, each opcode of R92's list is a command. -/
theorem exists_fields_of_legalOpcode {op : BitVec 8} (h : op ∈ legalOpcodes) :
    ∃ i : Instr, (⟨op, 0, false, 0⟩ : CommandFields) = i.fields := by
  simp only [legalOpcodes, List.mem_cons, List.not_mem_nil, or_false] at h
  obtain rfl | rfl | rfl | rfl | rfl | rfl | rfl | rfl | rfl | rfl := h
  exacts [⟨.nop, rfl⟩, ⟨.accClear, rfl⟩, ⟨.accAdd .pmem, rfl⟩, ⟨.accFinal, rfl⟩, ⟨.csum .pmem, rfl⟩,
    ⟨.buildIp false, rfl⟩, ⟨.buildPseudo, rfl⟩, ⟨.buildTcp, rfl⟩, ⟨.asmIp, rfl⟩, ⟨.asmTcp, rfl⟩]

/-- R92's `legal` admits the fields of commands only. -/
theorem exists_fields_of_wellFormed {f : CommandFields} (h : f.wellFormed = true) : ∃ i : Instr, f = i.fields := by
  obtain ⟨op, src, t, rsvd⟩ := f
  obtain ⟨⟨⟨rfl, hop⟩, hsrc⟩, ht⟩ : ((rsvd = 0 ∧ op ∈ legalOpcodes) ∧
      (src = 0 ∨ (op = 2 ∨ op = 4) ∧ src.toNat ≤ 4)) ∧ (t = false ∨ op = 0x10) := by
    simpa [CommandFields.wellFormed] using h
  obtain rfl | rfl := ht
  · obtain rfl | ⟨hs, hc⟩ := hsrc
    · exact exists_fields_of_legalOpcode hop
    · obtain ⟨m, rfl⟩ := exists_src_code hc
      obtain rfl | rfl := hs
      exacts [⟨.accAdd m, rfl⟩, ⟨.csum m, rfl⟩]
  · obtain rfl : src = 0 := by simpa using hsrc
    exact ⟨.buildIp t, rfl⟩

/-- A word decodes exactly when its fields are legal (R92). -/
theorem exists_decode_iff_wellFormed (w : Word) : (∃ i, decode w = .ok i) ↔ (fieldsOf w).wellFormed = true := by
  simp only [decode_eq_ok_iff]
  exact ⟨fun ⟨i, h⟩ => h ▸ i.fields_wellFormed, exists_fields_of_wellFormed⟩

/-- Settles O8: a legal LCMD decodes; any other does not, and the engine raises ILLEGAL. -/
theorem illegalWordRaisesIllegal : Obligations.IllegalWordRaisesIllegal := by
  intro s
  refine ⟨fun h => ?_, fun h => ?_⟩
  · obtain ⟨i, hi⟩ := (exists_decode_iff_wellFormed s.lcmd).2 h
    exact ⟨i, hi, by rw [Machine.engineStep, hi]⟩
  · cases hd : decode s.lcmd with
    | ok i => simp [(exists_decode_iff_wellFormed s.lcmd).1 ⟨i, hd⟩] at h
    | error r => exact ⟨Machine.raise .illegal s, by rw [Machine.engineStep, hd], rfl, rfl⟩

/-! ### The opcode table (R91) -/

/-- A mask acts on each field of a word. -/
theorem fieldsOf_and (w m : Word) :
    fieldsOf (w &&& m) =
      ⟨(fieldsOf w).op &&& (fieldsOf m).op, (fieldsOf w).src &&& (fieldsOf m).src, (fieldsOf w).t && (fieldsOf m).t,
        (fieldsOf w).rsvd &&& (fieldsOf m).rsvd⟩ := by
  simp only [fieldsOf, BitVec.extractLsb'_and, BitVec.getLsbD_and]

/-- The mask of the rows with a source leaves SRC out. -/
theorem fieldsOf_and_sourceMask (w : Word) : fieldsOf (w &&& 0xFFFFF0FF) = { fieldsOf w with src := 0 } := by
  have hm : fieldsOf 0xFFFFF0FF = ⟨.allOnes 8, 0, true, .allOnes 19⟩ := by decide
  rw [fieldsOf_and, hm]
  simp only [BitVec.and_allOnes, Bool.and_true, BitVec.ofNat_eq_ofNat, BitVec.and_zero]

/-- The mask of BUILD_IP's row leaves T out. -/
theorem fieldsOf_and_transportMask (w : Word) : fieldsOf (w &&& 0xFFFFEFFF) = { fieldsOf w with t := false } := by
  have hm : fieldsOf 0xFFFFEFFF = ⟨.allOnes 8, .allOnes 4, false, .allOnes 19⟩ := by decide
  rw [fieldsOf_and, hm]
  simp only [BitVec.and_allOnes, Bool.and_false]

/-- A row of the table fixes every field, all but a legal SRC, or all but T. -/
theorem opcodeRows_kinds : ∀ r ∈ opcodeRows,
    (r.mask = .allOnes 32 ∧ (fieldsOf r.pattern).wellFormed = true) ∨
    (r.mask = 0xFFFFF0FF ∧ r.hasSource = true ∧ (r.pattern = 0x02 ∨ r.pattern = 0x04)) ∨
    (r.mask = 0xFFFFEFFF ∧ r.pattern = 0x10) := by
  decide

/-- A word that matches a row has a command's fields. -/
theorem exists_fields_of_matchesWord {r : OpcodeRow} (hr : r ∈ opcodeRows) {w : Word} (h : r.matchesWord w = true) :
    ∃ i : Instr, fieldsOf w = i.fields := by
  obtain ⟨hmask, hsrc⟩ : w &&& r.mask = r.pattern ∧ (r.hasSource = false ∨ (fieldsOf w).src.toNat ≤ 4) := by
    simpa [OpcodeRow.matchesWord, fieldsOf] using h
  obtain ⟨hm, hp⟩ | ⟨hm, hs, hp⟩ | ⟨hm, hp⟩ := opcodeRows_kinds r hr <;> rw [hm] at hmask
  · rw [BitVec.and_allOnes] at hmask
    exact exists_fields_of_wellFormed (hmask ▸ hp)
  · obtain ⟨m, hc⟩ := exists_src_code (by simpa [hs] using hsrc)
    have hf : fieldsOf w = { fieldsOf r.pattern with src := m.code } := by
      rw [← hmask, fieldsOf_and_sourceMask, hc]
    obtain hp | hp := hp <;> rw [hp] at hf
    exacts [⟨.accAdd m, hf⟩, ⟨.csum m, hf⟩]
  · have hf : fieldsOf w = { fieldsOf r.pattern with t := (fieldsOf w).t } := by
      rw [← hmask, fieldsOf_and_transportMask]
    exact ⟨.buildIp _, by rw [hf, hp]; rfl⟩

/-- A command's word matches its own row and no other. -/
theorem opcodeRows_filter_encode (i : Instr) : (opcodeRows.filter (·.matchesWord (encode i))).length = 1 := by
  cases i with
  | accAdd src | csum src => cases src <;> decide
  | buildIp t => cases t <;> decide
  | _ => decide

/-- Settles O9: a word that decodes is an encoding, which has one row; a word with a row has a command's fields. -/
theorem decodeIsTheOpcodeTable : Obligations.DecodeIsTheOpcodeTable := by
  refine fun w => ⟨fun ⟨i, h⟩ => ?_, fun h => ?_⟩
  · rw [← (decodeAndEncodeAgree w i).1 h]
    exact opcodeRows_filter_encode i
  · obtain ⟨r, hr⟩ := List.exists_mem_of_length_eq_add_one h
    obtain ⟨hmem, hmatch⟩ := List.mem_filter.1 hr
    simpa only [decode_eq_ok_iff] using exists_fields_of_matchesWord hmem hmatch

end Sys2Proof

namespace Sys2Proof.Machine

/-! ### Host programs -/

/-- With reset released and no command due, a step is the host's first event, counted against the LATENCY (R20, R80). -/
theorem step_of_host_cons {s : State} {e : HostEvent} {rest : List HostEvent} (hc : s.status.errCode.toNat ≤ 3)
    (hr : s.resetAsserted = false) (hh : s.host = e :: rest) (hl : s.status.busy = true → 0 < s.latency) :
    step s = .next (hostEvent e rest { s with latency := s.latency - 1 }) := by
  have hcode : reservedCode s = false := by simpa [reservedCode] using hc
  have hturn : engineTurn s = false := by
    cases hb : s.status.busy with
    | true => simp [engineTurn, hh, (hl hb).ne']
    | false => simp [engineTurn, hb]
  simp [step, turn, hcode, hr, hturn, hostTurn, hh]

/-- Settles O57: `run`'s first event is an accepted CMD write of the command's word. -/
theorem runIssuesItsCommand : Obligations.RunIssuesItsCommand := by
  intro i s rest hc hr hb hh
  refine ⟨issue (encode i) { s with latency := s.latency - 1, host := .poll :: rest }, ?_, rfl, decode_encode i,
    rfl, rfl⟩
  rw [step_of_host_cons (e := wrEvent .cmd (encode i)) hc hr hh (by simp [hb])]
  exact congrArg _ (busAccess_write_reg .cmd _ _ (.inl hb))

/-- Settles O58: `poll`'s access reads STATUS, which BUSY makes no draw of. -/
theorem pollRepeatsUntilIdle : Obligations.PollRepeatsUntilIdle := by
  intro s rest hc hr hh hl
  refine ⟨_, step_of_host_cons hc hr hh hl, ?_⟩
  rw [hostEvent, statusRead, busAccess_read_reg_eq (.inr rfl)]
  exact ⟨rfl, rfl, rfl⟩

end Sys2Proof.Machine

namespace Sys2Proof.Machine

/-! ### The fold (R102)

A pass keeps the residue modulo 0xFFFF and keeps a positive value positive, so wherever the passes end at 16 bits they
end at one and the same value. -/

/-- The value that `fold` computes, as a remainder: 0 for 0, else the representative in 1..0xFFFF of the residue modulo
0xFFFF (R102). -/
def residue (x : Nat) : Nat := if x = 0 then 0 else (x - 1) % 0xFFFF + 1

theorem residue_of_fits {x : Nat} (h : x ≤ 0xFFFF) : residue x = x := by
  simp only [residue]
  split <;> omega

theorem residue_foldOnce (x : Nat) : residue (foldOnce x) = residue x := by
  simp only [residue, foldOnce_eq]
  split_ifs <;> omega

/-- Passes that end at 16 bits end at the residue. -/
theorem foldFuel_eq_residue {n x : Nat} (h : foldFuel n x ≤ 0xFFFF) : foldFuel n x = residue x := by
  induction n generalizing x with
  | zero => exact (residue_of_fits h).symm
  | succ n ih =>
    simp only [foldFuel] at h ⊢
    split
    · next hx => rw [if_pos hx] at h; rw [ih h, residue_foldOnce]
    · next hx => exact (residue_of_fits (by omega)).symm

/-- Every pass lowers the value, so that many passes reach 16 bits. -/
theorem foldFuel_fits {n x : Nat} (h : x ≤ n + 0xFFFF) : foldFuel n x ≤ 0xFFFF := by
  induction n generalizing x with
  | zero => simpa [foldFuel] using h
  | succ n ih =>
    simp only [foldFuel]
    split
    · next hx => exact ih (by have := foldOnce_lt x hx; omega)
    · omega

/-- The first pass of a 32-bit value leaves at most 17 bits, and the second at most 16. -/
theorem foldFuel_two_fits {x : Nat} (h : x < 2 ^ 32) : foldFuel 2 x ≤ 0xFFFF := by
  simp only [foldFuel, foldOnce_eq]
  split_ifs <;> omega

theorem fold_eq_residue (x : Nat) : fold x = residue x :=
  foldFuel_eq_residue (foldFuel_fits (by omega))

theorem fold_le (x : Nat) : fold x ≤ 0xFFFF := foldFuel_fits (by omega)

theorem fold_mod (x : Nat) : fold x % 0xFFFF = x % 0xFFFF := by
  rw [fold_eq_residue, residue]
  split <;> omega

theorem fold_eq_zero_iff (x : Nat) : fold x = 0 ↔ x = 0 := by
  rw [fold_eq_residue, residue]
  split <;> omega

/-- A value in 1..0xFFFF is known by its residue modulo 0xFFFF. -/
theorem eq_fold_of_mod {x y : Nat} (hx : x ≠ 0) (hy : y ≠ 0) (hle : y ≤ 0xFFFF) (h : y % 0xFFFF = x % 0xFFFF) :
    y = fold x := by
  have := fold_le x
  have := fold_mod x
  have := mt (fold_eq_zero_iff x).1 hx
  omega

/-- Values of one residue, zero together, fold to the same value. -/
theorem fold_congr {x y : Nat} (h0 : x = 0 ↔ y = 0) (h : x % 0xFFFF = y % 0xFFFF) : fold x = fold y := by
  by_cases hx : x = 0
  · rw [hx, h0.1 hx]
  · exact eq_fold_of_mod (mt h0.2 hx) (mt (fold_eq_zero_iff x).1 hx) (fold_le x) ((fold_mod x).trans h)

/-- Settles O18: the loop, its two passes and its uniqueness all come from the fold being the residue. -/
theorem foldIsResidue : Obligations.FoldIsResidue := by
  refine ⟨fun x => ?_, fun x hx => ?_, rfl, fun x hx => ⟨?_, fun y h1 hle hm => ?_⟩⟩
  · change fold x = if 0xFFFF < x then fold (foldOnce x) else x
    simp only [fold_eq_residue, residue_foldOnce]
    split
    · rfl
    · exact residue_of_fits (by omega)
  · rw [foldFuel_eq_residue (foldFuel_two_fits hx), fold_eq_residue]
  · have := mt (fold_eq_zero_iff x).1 (by omega)
    exact ⟨by omega, fold_le x, fold_mod x⟩
  · exact eq_fold_of_mod (by omega) (by omega) hle hm

/-! ### The complement of a fold (R103, R108) -/

theorem complement_toNat (x : Nat) : (complement x).toNat = 0xFFFF - fold x := by
  have := fold_le x
  rw [complement, BitVec.toNat_not, BitVec.toNat_ofNat, Nat.mod_eq_of_lt (by omega)]

theorem complement_congr {x y : Nat} (h : fold x = fold y) : complement x = complement y := by
  rw [complement, complement, h]

theorem complement_eq_ones_iff (x : Nat) : complement x = 0xFFFF ↔ x = 0 := by
  have := fold_le x
  rw [← fold_eq_zero_iff, ← BitVec.toNat_inj, complement_toNat, show (0xFFFF : Half).toNat = 0xFFFF from rfl]
  omega

theorem complement_eq_zero_iff (x : Nat) : complement x = 0 ↔ 0 < x ∧ x % 0xFFFF = 0 := by
  have := fold_le x
  have := fold_mod x
  have := fold_eq_zero_iff x
  rw [← BitVec.toNat_inj, complement_toNat, show (0 : Half).toNat = 0 from rfl]
  omega

/-- Settles O21: the two ends of 16 bits are the complements of the fold's two ends. -/
theorem checksumExtremes : Obligations.ChecksumExtremes := fun s =>
  ⟨(complement_eq_ones_iff _).trans List.sum_eq_zero_iff, complement_eq_zero_iff _, by decide⟩

/-! ### The end-around carry (R101, R105) -/

/-- Settles O17: the sum has at most one carry out of 32 bits. -/
theorem endAroundCarry : Obligations.EndAroundCarry := by
  intro a w hw
  have := a.isLt
  rw [ocadd_eq, BitVec.toNat_ofNat]
  omega

/-- The end-around carry keeps the residue modulo 0xFFFF, since 2^32 is 1 modulo 0xFFFF. -/
theorem ocadd_mod (a : Word) {w : Nat} (hw : w ≤ 0xFFFF) : (ocadd a w).toNat % 0xFFFF = (a.toNat + w) % 0xFFFF := by
  have := endAroundCarry a w hw
  omega

/-- The carry comes back as 1, so a sum is 0 only where both parts are. -/
theorem ocadd_toNat_eq_zero_iff (a : Word) {w : Nat} (hw : w ≤ 0xFFFF) :
    (ocadd a w).toNat = 0 ↔ a.toNat + w = 0 := by
  have := endAroundCarry a w hw
  omega

/-- The accumulator keeps the exact sum's residue and is 0 exactly where the exact sum is. -/
theorem foldl_ocadd_spec {ws : List Nat} (a : Word) (h : ∀ w ∈ ws, w ≤ 0xFFFF) :
    (ws.foldl ocadd a).toNat % 0xFFFF = (a.toNat + ws.sum) % 0xFFFF ∧
      ((ws.foldl ocadd a).toNat = 0 ↔ a.toNat + ws.sum = 0) := by
  induction ws generalizing a with
  | nil => simp
  | cons w ws ih =>
    obtain ⟨hw, hws⟩ := List.forall_mem_cons.1 h
    have := ih (ocadd a w) hws
    have := ocadd_mod a hw
    have := ocadd_toNat_eq_zero_iff a hw
    simp only [List.foldl_cons, List.sum_cons]
    omega

/-- Settles O19, by induction on the words from any accumulator. -/
theorem accumulatorEquivalence : Obligations.AccumulatorEquivalence := by
  intro ws h
  obtain ⟨hmod, hzero⟩ := foldl_ocadd_spec 0 h
  simp only [BitVec.toNat_zero, BitVec.ofNat_eq_ofNat, Nat.zero_add] at hmod hzero
  refine ⟨hmod, ?_, fold_congr hzero hmod⟩
  rw [← BitVec.toNat_inj]
  exact hzero.trans List.sum_eq_zero_iff

/-! ### The words of a byte sequence (R100, R103) -/

/-- An odd sequence's words are those of the sequence with a zero byte after it. -/
theorem words_append_zero {s : List Byte} (h : s.length % 2 = 1) : words (s ++ [0]) = words s := by
  induction s using words.induct with
  | case1 => simp at h
  | case2 b => simp [words]
  | case3 b c rest ih =>
    simp only [List.length_cons] at h
    rw [List.cons_append, List.cons_append, words, words, ih (by omega)]

/-- Word `k` of an even sequence is the pair of its bytes `2k` and `2k + 1`. -/
theorem words_eq_pairs {p : List Byte} (h : p.length % 2 = 0) :
    words p = (List.range (p.length / 2)).map fun k => pair (p.getD (2 * k) 0) (p.getD (2 * k + 1) 0) := by
  induction p using words.induct with
  | case1 => rfl
  | case2 b => simp at h
  | case3 b c rest ih =>
    simp only [List.length_cons] at h
    have hlen : (b :: c :: rest).length / 2 = rest.length / 2 + 1 := by simp only [List.length_cons]; omega
    rw [hlen, List.range_succ_eq_map, words, ih (by omega), List.map_cons, List.map_map]
    rfl

/-- Settles O16: padding changes no word, and a word is a pair of bytes. -/
theorem checksumOfPaddedWords : Obligations.ChecksumOfPaddedWords := by
  refine ⟨fun s p hp => ?_, by decide⟩
  have hwords : words s = words p ∧ p.length % 2 = 0 := by
    split at hp <;> subst hp
    · next h => exact ⟨(words_append_zero h).symm, by simp; omega⟩
    · exact ⟨rfl, by omega⟩
  rw [checksum, complement_toNat, hwords.1, words_eq_pairs hwords.2]

/-! ### A checksum written into its field (R107) -/

/-- A value written at an even offset is one word, which a zeroed field did not add to the sum. -/
theorem sum_words_insert16 (v : Half) (m : Nat) {s : List Byte} (hlen : 2 * m + 1 < s.length)
    (h0 : s.getD (2 * m) 0 = 0) (h1 : s.getD (2 * m + 1) 0 = 0) :
    (words (insert16 s (2 * m) v)).sum = (words s).sum + v.toNat := by
  induction m generalizing s with
  | zero =>
    match s, hlen, h0, h1 with
    | b :: c :: rest, _, h0, h1 =>
      obtain rfl : b = 0 := h0
      obtain rfl : c = 0 := h1
      have hi : insert16 (0 :: 0 :: rest) (2 * 0) v = v.extractLsb' 8 8 :: v.extractLsb' 0 8 :: rest := rfl
      rw [hi, words, words, List.sum_cons, List.sum_cons, be16_toNat]
      simp [Nat.add_comm]
  | succ m ih =>
    match s, hlen, h0, h1 with
    | b :: c :: rest, hlen, h0, h1 =>
      have hi : insert16 (b :: c :: rest) (2 * (m + 1)) v = b :: c :: insert16 rest (2 * m) v := rfl
      rw [hi, words, words, List.sum_cons, List.sum_cons, ih (by simp at hlen; omega) h0 h1]
      omega

/-- Exactly the checksum verifies to 0 in its zeroed field, and 0xFFFF in place of a checksum 0x0000, the other zero of
one's complement. -/
theorem checksum_insert16_eq_zero_iff (v : Half) (m : Nat) {s : List Byte} (hlen : 2 * m + 1 < s.length)
    (h0 : s.getD (2 * m) 0 = 0) (h1 : s.getD (2 * m + 1) 0 = 0) :
    checksum (insert16 s (2 * m) v) = 0 ↔
      v.toNat = (checksum s).toNat ∨ (v.toNat = 0xFFFF ∧ (checksum s).toNat = 0) := by
  have := v.isLt
  have := fold_le (words s).sum
  have := fold_mod (words s).sum
  have := fold_eq_zero_iff (words s).sum
  rw [checksum, complement_eq_zero_iff, sum_words_insert16 v m hlen h0 h1, checksum, complement_toNat]
  omega

/-- Settles O20: the checksum verifies in its own field; at offset 1 of `01 00 00` it straddles two words. -/
theorem selfVerification : Obligations.SelfVerification :=
  ⟨fun _ m hlen h0 h1 => (checksum_insert16_eq_zero_iff _ m hlen h0 h1).2 (.inl rfl),
    [1, 0, 0], 0, by decide⟩

/-! ### The other byte order (R109)

Exchanging the bytes of a word multiplies it by 256 modulo 0xFFFF. -/

theorem swapBytes_toNat (v : Half) : (swapBytes v).toNat = 256 * (v.toNat % 256) + v.toNat / 256 := by
  have := v.isLt
  rw [swapBytes, append_toNat, BitVec.extractLsb'_toNat, BitVec.extractLsb'_toNat, Nat.shiftRight_eq_div_pow,
    Nat.shiftRight_eq_div_pow]
  omega

theorem swapBytes_eq_self_iff (v : Half) : swapBytes v = v ↔ v.extractLsb' 8 8 = v.extractLsb' 0 8 := by
  have := v.isLt
  rw [← BitVec.toNat_inj, ← BitVec.toNat_inj, swapBytes_toNat, BitVec.extractLsb'_toNat, BitVec.extractLsb'_toNat,
    Nat.shiftRight_eq_div_pow, Nat.shiftRight_eq_div_pow]
  omega

/-- A value 256 times another modulo 0xFFFF has the other's complement with its bytes exchanged. -/
theorem complement_of_mul_256 {x y : Nat} (h0 : y = 0 ↔ x = 0) (h : y % 0xFFFF = 256 * x % 0xFFFF) :
    complement y = swapBytes (complement x) := by
  have := fold_le x
  have := fold_mod x
  have := fold_eq_zero_iff x
  have := fold_le y
  have := fold_mod y
  have := fold_eq_zero_iff y
  rw [← BitVec.toNat_inj, swapBytes_toNat, complement_toNat, complement_toNat]
  omega

theorem sum_wordsLittle (s : List Byte) :
    ((wordsLittle s).sum = 0 ↔ (words s).sum = 0) ∧
      (wordsLittle s).sum % 0xFFFF = 256 * (words s).sum % 0xFFFF := by
  induction s using words.induct with
  | case1 => exact ⟨.rfl, rfl⟩
  | case2 b => simp only [words, wordsLittle, List.sum_singleton]; omega
  | case3 b c rest ih => simp only [words, wordsLittle, List.sum_cons]; omega

theorem checksumLittle_eq (s : List Byte) : checksumLittle s = swapBytes (checksum s) :=
  complement_of_mul_256 (sum_wordsLittle s).1 (sum_wordsLittle s).2

theorem swapBytes_swapBytes (v : Half) : swapBytes (swapBytes v) = v := by
  have := v.isLt
  rw [← BitVec.toNat_inj, swapBytes_toNat, swapBytes_toNat]
  omega

theorem swapBytes_eq_zero_iff (v : Half) : swapBytes v = 0 ↔ v = 0 :=
  ⟨fun h => by rw [← swapBytes_swapBytes v, h]; rfl, by rintro rfl; rfl⟩

/-- Written with its bytes exchanged, a checksum verifies exactly when that leaves it the same: 0xFFFF is no exchange of
0x0000. -/
theorem checksum_insert16_swapBytes_eq_zero_iff (m : Nat) {s : List Byte} (hlen : 2 * m + 1 < s.length)
    (h0 : s.getD (2 * m) 0 = 0) (h1 : s.getD (2 * m + 1) 0 = 0) :
    checksum (insert16 s (2 * m) (swapBytes (checksum s))) = 0 ↔ swapBytes (checksum s) = checksum s := by
  rw [checksum_insert16_eq_zero_iff _ m hlen h0 h1, ← BitVec.toNat_inj, swapBytes_toNat]
  omega

/-- Settles O22: both mixed implementations write the checksum with its bytes exchanged. -/
theorem byteOrderConsistency : Obligations.ByteOrderConsistency := by
  intro s
  refine ⟨by rw [checksumLittle_eq, swapBytes_swapBytes], fun m hlen h0 h1 => ?_⟩
  have hmixed := checksum_insert16_swapBytes_eq_zero_iff m hlen h0 h1
  refine ⟨?_, hmixed.trans (swapBytes_eq_self_iff _)⟩
  rw [← swapBytes_eq_self_iff, checksumLittle_eq, checksumLittle_eq, swapBytes_eq_zero_iff, swapBytes_swapBytes]
  exact hmixed.trans eq_comm

/-! ### Feeding the accumulator (R112, R113) -/

/-- The byte held back from the last range, as a stream (R112). -/
def Accum.held (a : Accum) : List Byte := if a.pendV then [a.pendB] else []

/-- The accumulator after a stream: its complete pairs added to `acc`, its last odd byte held (R112). -/
def Accum.ofStream (acc : Word) (bs : List Byte) : Accum :=
  { acc := (words (bs.take (bs.length / 2 * 2))).foldl ocadd acc
    pendV := decide (bs.length % 2 = 1)
    pendB := if bs.length % 2 = 1 then bs.getLastD 0 else 0 }

/-- A pair at the head of a stream is added first. -/
theorem Accum.ofStream_pair (acc : Word) (b c : Byte) (bs : List Byte) :
    Accum.ofStream acc (b :: c :: bs) = Accum.ofStream (ocadd acc (256 * b.toNat + c.toNat)) bs := by
  have hlen : (b :: c :: bs).length / 2 * 2 = bs.length / 2 * 2 + 2 := by simp only [List.length_cons]; omega
  have hlast (h : bs.length % 2 = 1) : (b :: c :: bs).getLastD 0 = bs.getLastD 0 := by
    cases bs with
    | nil => simp at h
    | cons d ds => simp
  have hodd : (b :: c :: bs).length % 2 = bs.length % 2 := by simp only [List.length_cons]; omega
  simp only [Accum.ofStream, hlen, hodd, List.take_succ_cons, words, List.foldl_cons, Accum.mk.injEq, true_and]
  split
  · next h => exact hlast h
  · rfl

/-- With no byte held, feeding bytes feeds them as a stream. -/
theorem Accum.addBytes_of_empty (acc : Word) (bs : List Byte) :
    Accum.addBytes ⟨acc, false, 0⟩ bs = Accum.ofStream acc bs := by
  induction bs using words.induct generalizing acc with
  | case1 => rfl
  | case2 b => simp [Accum.addByte, Accum.ofStream, words]
  | case3 b c rest ih =>
    rw [Accum.addBytes_cons, Accum.addBytes_cons, Accum.addByte_pair _ _ _ rfl, ih, Accum.ofStream_pair]

/-- A held byte is the stream's first (R112). -/
theorem Accum.addBytes_eq_ofStream {a : Accum} (bs : List Byte) (ha : a.pendV = false → a.pendB = 0) :
    a.addBytes bs = Accum.ofStream a.acc (a.held ++ bs) := by
  obtain ⟨acc, pendV, pendB⟩ := a
  rw [← Accum.addBytes_of_empty]
  cases pendV with
  | true => rfl
  | false => rw [show pendB = 0 from ha rfl]; rfl

/-- The local padding of a held byte completes the stream's words (R113). -/
theorem Accum.final_addBytes (acc : Word) (bs : List Byte) :
    (Accum.addBytes ⟨acc, false, 0⟩ bs).final = complement ((words bs).foldl ocadd acc).toNat := by
  induction bs using words.induct generalizing acc with
  | case1 => rfl
  | case2 b => rfl
  | case3 b c rest ih =>
    rw [Accum.addBytes_cons, Accum.addBytes_cons, Accum.addByte_pair _ _ _ rfl, ih, words, List.foldl_cons]

/-- From a cleared accumulator the result is the checksum of the bytes fed (R103, R105). -/
theorem Accum.final_addBytes_empty (bs : List Byte) : (Accum.empty.addBytes bs).final = checksum bs :=
  (Accum.final_addBytes 0 bs).trans (complement_congr (accumulatorEquivalence (words bs) (words_le bs)).2.2)

/-! ### The checksum commands (R110 to R114) -/

theorem exec_of_commandError_none {i : Instr} {s : State} (h : commandError i s = none) :
    exec i s = .next (finish (writeResults i s)) := by
  rw [exec_eq, h]; rfl

theorem exec_accAdd_legal {src : Src} {s : State} (h : s.csOff.toNat + s.csLen.toNat ≤ srcSize src) :
    exec (.accAdd src) s = .next (finish (accumulate src s)) :=
  exec_of_commandError_none (by simp [commandError, h])

theorem exec_csum_legal {src : Src} {s : State} (h : s.csOff.toNat + s.csLen.toNat ≤ srcSize src) :
    exec (.csum src) s = .next (finish (finalise (accumulate src (clearAccum s)))) :=
  exec_of_commandError_none (by simp [commandError, h])

theorem accumulate_cs (src : Src) (s : State) : (accumulate src s).cs = s.cs.addBytes (rangeBytes src s) := rfl

/-- Settles O23: NOP writes no result. -/
theorem nopWritesStatusOnly : Obligations.NopWritesStatusOnly := fun _ => exec_of_commandError_none rfl

/-- Settles O24: ACC_CLEAR's one result is the empty accumulator. -/
theorem accClearZeroesAccumulator : Obligations.AccClearZeroesAccumulator := fun _ =>
  ⟨_, exec_of_commandError_none rfl, rfl, rfl, rfl, rfl, rfl⟩

/-- Settles O27: ACC_FINAL's one result is the complemented fold. -/
theorem accFinalFoldsAndComplements : Obligations.AccFinalFoldsAndComplements := fun _ =>
  ⟨_, exec_of_commandError_none rfl, complement_toNat _, rfl, rfl⟩

/-- Settles O25: the accumulator is fed the held byte and then the range. -/
theorem accAddAccumulatesRange : Obligations.AccAddAccumulatesRange := by
  rintro src s stream hpend hrange rfl
  refine ⟨_, exec_accAdd_legal hrange, ?_⟩
  rw [finish_cs, accumulate_cs, Accum.addBytes_eq_ofStream _ hpend]
  exact ⟨rfl, decide_eq_true_iff, rfl, rfl, rfl⟩

/-- Settles O28: CSUM feeds a cleared accumulator, whose stream is the range alone. -/
theorem csumIsTheChecksumOfTheRange : Obligations.CsumIsTheChecksumOfTheRange := by
  rintro src s r hrange rfl
  have hcs : (finish (finalise (accumulate src (clearAccum s)))).cs = Accum.ofStream 0 (rangeBytes src s) :=
    Accum.addBytes_of_empty 0 _
  refine ⟨_, exec_csum_legal hrange, Accum.final_addBytes_empty (rangeBytes src s), ?_⟩
  rw [hcs]
  exact ⟨rfl, decide_eq_true_iff, rfl, rfl, rfl⟩

/-- What a legal range reads of a built header. -/
theorem header_get {n : Nat} (hdr : Vector Byte n) (off : Nat) {len i : Nat} (h : i < len) :
    ((hdr.toList.drop off).take len)[i]? = hdr[off + i]? := by
  simp [h]

/-- Settles O26, source by source. -/
theorem checksumRangeReadsSource : Obligations.ChecksumRangeReadsSource := by
  refine ⟨⟨rfl, rfl, rfl, rfl, rfl⟩, fun src s hrange => ⟨rangeBytes_length src s (by simp [rangeBad, hrange]), ?_⟩⟩
  intro i hi
  cases src with
  | pmem => intro b hb; simp [rangeBytes, srcRead, Memory.read_get _ _ _ _ _ hi, hb]
  | fmem => intro b hb; simp [rangeBytes, srcRead, Memory.read_get _ _ _ _ _ hi, hb]
  | iph => exact header_get s.iph _ hi
  | tcph => exact header_get s.tcph _ hi
  | psh => exact header_get s.psh _ hi

/-! ### Streams of ranges (R106) -/

/-- A streamed accumulator has been fed the concatenation from empty. -/
theorem Streamed.cs_eq {s : State} {bs : List Byte} (h : Streamed s bs) : s.cs = Accum.empty.addBytes bs := by
  induction h with
  | clear h =>
    rw [exec_of_commandError_none rfl] at h
    cases h
    rfl
  | add _ hu hrange h ih =>
    rw [exec_accAdd_legal hrange] at h
    cases h
    rw [finish_cs, accumulate_cs, hu, ih, Accum.addBytes_append]

/-- Settles O29, by induction on the stream. -/
theorem streamedRangesChecksum : Obligations.StreamedRangesChecksum := by
  intro s u bs h hu
  refine ⟨_, exec_of_commandError_none rfl, ?_, hu⟩
  rw [← Accum.final_addBytes_empty, ← h.cs_eq, ← hu]
  rfl

end Sys2Proof.Machine

namespace Sys2Proof.Machine

/-! ### A command that succeeds (R33) -/

/-- DONE rises only in success: the command has passed its checks, written its results and finished. -/
theorem exec_of_done_rises {i : Instr} {s t : State} (h : exec i s = .next t) (hs : s.status.done = false)
    (ht : t.status.done = true) : commandError i s = none ∧ t = finish (writeResults i s) := by
  obtain ⟨c, -, rfl⟩ | hok := exec_next_cases h
  · rw [raise_status, Status.failed_done, hs] at ht
    contradiction
  · exact hok

/-! ### The IPv4 header (R130 to R135) -/

/-- The header checksum field is the 16-bit field at byte 10 (R130). -/
theorem insert16_ipHeaderBytes (s : State) (tl c v : Half) :
    insert16 (ipHeaderBytes s tl c) 10 v = ipHeaderBytes s tl v := rfl

/-- The total length fits its field wherever BUILD_IP's checks pass (R131, R202). -/
theorem packedLength_toNat {tf : Bool} {s : State}
    (h : s.ctrl.ipLenMode = true → 20 + 20 * tf.toNat + s.plen.toNat ≤ 0xFFFF) :
    (packedLength tf s).toNat =
      if s.ctrl.ipLenMode then 20 + 20 * tf.toNat + s.plen.toNat else s.ip.totLen.toNat := by
  rw [packedLength]
  split
  · next hm =>
    have := h hm
    rw [computedLength_eq, BitVec.toNat_ofNat, Nat.mod_eq_of_lt (by omega)]
  · rfl

/-- BUILD_IP has no error to report in supplied-length mode, nor where the computed length fits (R201, R202). -/
theorem commandError_buildIp {tf : Bool} {s : State}
    (h : s.ctrl.ipLenMode = true → 20 + 20 * tf.toNat + s.plen.toNat ≤ 0xFFFF) :
    commandError (.buildIp tf) s = none := by
  rw [commandError]
  cases hm : s.ctrl.ipLenMode with
  | false => rfl
  | true =>
    have := h hm
    rw [if_neg (by decide), if_neg (by omega), if_neg (by omega)]

/-- The checksum BUILD_IP packs, supplied or computed over the header with its own field zero (R132). -/
theorem ipChecksum_toNat (s : State) (tl : Half) :
    (ipChecksum s tl).toNat =
      if s.ctrl.ipCsumMode then (checksum (insert16 (writeIpHeader tl s).iph.toList 10 0)).toNat
      else s.ip.csum.toNat := by
  rw [writeIpHeader_iph_toList, insert16_ipHeaderBytes, ipChecksum]
  split <;> rfl

/-- Settles O34: BUILD_IP's checks pass, and each field lies in IPH most significant byte first. -/
theorem buildIpPacksHeader : Obligations.BuildIpPacksHeader := by
  intro tf s h
  have hlen := packedLength_toNat h
  have hsum := ipChecksum_toNat s (packedLength tf s)
  exact ⟨_, exec_of_commandError_none (commandError_buildIp h), rfl, rfl, (be16_toNat _).trans hlen, be16_toNat _,
    be16_toNat _, rfl, rfl, (be16_toNat _).trans hsum, be32_toNat _, be32_toNat _, rfl, rfl⟩

/-- Settles O35: the header written by a successful BUILD_IP begins with version 4 and header length 5. -/
theorem builtIpHeaderShape : Obligations.BuiltIpHeaderShape := by
  intro tf s t h hs ht
  obtain ⟨-, rfl⟩ := exec_of_done_rises h hs ht
  exact ⟨ipHeaderBytes_length s _ _, rfl⟩

/-- A header whose checksum was computed verifies: the checksum went into its own zeroed field, at an even offset
(R107, R135). -/
theorem checksum_writeIpHeader {s : State} (tl : Half) (hm : s.ctrl.ipCsumMode = true) :
    checksum (writeIpHeader tl s).iph.toList = 0 := by
  rw [writeIpHeader_iph_toList, ipChecksum, if_pos hm, ← insert16_ipHeaderBytes s tl 0]
  exact selfVerification.1 (ipHeaderBytes s tl 0) 5 (by rw [ipHeaderBytes_length]; decide) rfl rfl

/-- The range with CS_OFF 0 and CS_LEN 20 is the whole of IPH (R35, R93). -/
theorem rangeBytes_iph_whole {s : State} (ho : s.csOff = 0) (hl : s.csLen = 20) :
    rangeBytes .iph s = s.iph.toList := by
  rw [rangeBytes, ho, hl]
  exact List.take_of_length_le (by simp)

/-- Settles O36: IPH verifies as it was built, and CSUM's result is the checksum of the range it reads, which is the
whole of IPH. -/
theorem builtIpHeaderSelfVerifies : Obligations.BuiltIpHeaderSelfVerifies := by
  intro tf s t u hm h hs ht
  obtain ⟨-, rfl⟩ := exec_of_done_rises h hs ht
  have hzero := checksum_writeIpHeader (packedLength tf s) hm
  refine ⟨hzero, fun hiph hoff hlen => ?_⟩
  have hrange : u.csOff.toNat + u.csLen.toNat ≤ srcSize .iph := by rw [hoff, hlen]; decide
  obtain ⟨v, hv, hres, -⟩ := csumIsTheChecksumOfTheRange .iph u _ hrange rfl
  refine ⟨v, hv, ?_⟩
  rw [hres, rangeBytes_iph_whole hoff hlen, hiph]
  exact hzero

end Sys2Proof.Machine

namespace Sys2Proof.Machine

/-! ### The pseudo-header and the TCP header (R150 to R158) -/

/-- BUILD_PSEUDO and BUILD_TCP make the same checks: both pass exactly where the TCP segment fits 16 bits
(R201, R202). -/
theorem commandError_buildSegment {i : Instr} (s : State) (hi : i = .buildPseudo ∨ i = .buildTcp) :
    commandError i s = none ↔ 20 + s.plen.toNat ≤ 0xFFFF := by
  have hi : commandError i s = commandError .buildPseudo s := by obtain rfl | rfl := hi <;> rfl
  rw [hi, commandError]
  split_ifs
  · exact iff_of_false nofun (by omega)
  · exact iff_of_false nofun (by omega)
  · exact iff_of_true rfl (by omega)

/-- Where the segment fits, PSH holds each field most significant byte first (R150). -/
theorem writePseudo_psh_fields {s : State} (h : 20 + s.plen.toNat ≤ 0xFFFF) :
    let psh := (writePseudo s).psh
    2 ^ 16 * pair psh[0] psh[1] + pair psh[2] psh[3] = s.ip.src.toNat ∧
    2 ^ 16 * pair psh[4] psh[5] + pair psh[6] psh[7] = s.ip.dst.toNat ∧
    psh[8] = 0 ∧ psh[9] = s.ip.proto ∧ pair psh[10] psh[11] = 20 + s.plen.toNat := by
  have hlen : (BitVec.ofNat 16 (segmentLength s)).toNat = 20 + s.plen.toNat := by
    rw [segmentLength_eq, BitVec.toNat_ofNat, Nat.mod_eq_of_lt (by omega)]
  exact ⟨be32_toNat _, be32_toNat _, rfl, rfl, (be16_toNat _).trans hlen⟩

/-- Settles O37: BUILD_PSEUDO's checks pass, and its one result is PSH. -/
theorem buildPseudoPacksHeader : Obligations.BuildPseudoPacksHeader := by
  intro s h
  obtain ⟨hsrc, hdst, hzero, hproto, hlen⟩ := writePseudo_psh_fields h
  exact ⟨_, exec_of_commandError_none ((commandError_buildSegment s (.inl rfl)).2 h), hsrc, hdst, hzero, hproto, hlen,
    rfl, rfl⟩

/-- The data offset 5 lies above the four reserved bits, which it does not meet (R154). -/
theorem dataOffsetByte_toNat : ∀ rsv : BitVec 4, (dataOffsetByte rsv).toNat = 16 * 5 + rsv.toNat := by decide

theorem dataOffsetByte_nibble : ∀ rsv : BitVec 4, (dataOffsetByte rsv).extractLsb' 4 4 = 5 := by decide

/-- The TCP checksum field is the 16-bit field at byte 16 of the header (R153). -/
theorem insert16_tcpHeaderBytes (s : State) (c v : Half) :
    insert16 (tcpHeaderBytes s c) 16 v = tcpHeaderBytes s v := rfl

/-- Settles O38: BUILD_TCP's checks pass, and the checksum it packs is that of the header it packs with the checksum
field zeroed. -/
theorem buildTcpPacksHeader : Obligations.BuildTcpPacksHeader := by
  intro s h
  obtain ⟨hsrc, hdst, hzero, hproto, hlen⟩ := writePseudo_psh_fields h
  have hsum : tcpChecksum s =
      checksum ((writePseudo s).psh.toList ++ insert16 (writeTcpHeader s).tcph.toList 16 0 ++ payload s) := by
    rw [writePseudo_psh_toList, writeTcpHeader_tcph_toList, insert16_tcpHeaderBytes, tcpChecksum]
  exact ⟨_, exec_of_commandError_none ((commandError_buildSegment s (.inr rfl)).2 h), be16_toNat _, be16_toNat _,
    be32_toNat _, be32_toNat _, dataOffsetByte_toNat _, rfl, be16_toNat _,
    (be16_toNat _).trans (congrArg BitVec.toNat hsum), be16_toNat _, hsrc, hdst, hzero, hproto, hlen, rfl, rfl⟩

/-- After the 12 bytes of the pseudo-header, the TCP checksum field is at byte 28 of the checksummed bytes (R156). -/
theorem insert16_tcpSegment (s : State) (c v : Half) :
    insert16 (pseudoBytes s ++ tcpHeaderBytes s c ++ payload s) 28 v =
      pseudoBytes s ++ tcpHeaderBytes s v ++ payload s := rfl

/-- The built segment verifies: the checksum went into its own zeroed field, at an even offset (R107, R158). -/
theorem checksum_tcpSegment (s : State) :
    checksum (pseudoBytes s ++ tcpHeaderBytes s (tcpChecksum s) ++ payload s) = 0 := by
  have hlen : 2 * 14 + 1 < (pseudoBytes s ++ tcpHeaderBytes s 0 ++ payload s).length := by
    rw [List.length_append, List.length_append, pseudoBytes_length, tcpHeaderBytes_length]
    omega
  rw [← insert16_tcpSegment s 0]
  exact selfVerification.1 _ 14 hlen rfl rfl

/-- Settles O39: success means the segment length fitted, and PSH, TCPH and the payload verify as they were built. -/
theorem builtTcpHeaderSelfVerifies : Obligations.BuiltTcpHeaderSelfVerifies := by
  intro s t h hs ht
  obtain ⟨hok, rfl⟩ := exec_of_done_rises h hs ht
  obtain ⟨-, -, -, -, hlen⟩ := writePseudo_psh_fields ((commandError_buildSegment s (.inr rfl)).1 hok)
  exact ⟨dataOffsetByte_nibble _, hlen, checksum_tcpSegment s⟩

end Sys2Proof.Machine

namespace Sys2Proof.Machine

/-! ### What an assembly writes (R180 to R185) -/

/-- An assembly has no error to report exactly where the payload fits PMEM (R201). -/
theorem commandError_asm {i : Instr} {s : State} (hi : i = .asmIp ∨ i = .asmTcp) :
    commandError i s = none ↔ s.plen.toNat ≤ 65536 := by
  refine ⟨plen_le_of_asm hi, fun hp => ?_⟩
  obtain rfl | rfl := hi <;> exact if_neg (by omega)

section
variable {hs : List Byte} {s : State}

/-- FLEN does not wrap: at most 40 bytes of headers and a payload that fits PMEM are counted exactly. -/
theorem writeFrame_flen_toNat (hl : hs.length ≤ 40) (hp : s.plen.toNat ≤ 65536) :
    (writeFrame hs s).flen.toNat = hs.length + s.plen.toNat :=
  (BitVec.toNat_ofNat _ 32).trans (Nat.mod_eq_of_lt (by omega))

/-- FMEM holds the frame's bytes from offset 0, and beyond the frame what it held before. -/
theorem byteAt_writeFrame (a : Nat) :
    Memory.byteAt (writeFrame hs s).fmem a =
      if a < hs.length + s.plen.toNat then (frameBytes hs s)[a]? else Memory.byteAt s.fmem a := by
  simp [writeFrame, Memory.byteAt_write]

theorem byteAt_writeFrame_header {i : Nat} (h : i < hs.length) :
    Memory.byteAt (writeFrame hs s).fmem i = hs[i]? := by
  rw [byteAt_writeFrame, if_pos (by omega), frameBytes, List.getElem?_append_left h]

theorem byteAt_writeFrame_payload {i : Nat} (h : i < s.plen.toNat) :
    Memory.byteAt (writeFrame hs s).fmem (hs.length + i) = (payload s)[i]? := by
  rw [byteAt_writeFrame, if_pos (by omega), frameBytes, List.getElem?_append_right (by omega), Nat.add_sub_cancel_left]

theorem byteAt_writeFrame_beyond {a : Nat} (h : hs.length + s.plen.toNat ≤ a) :
    Memory.byteAt (writeFrame hs s).fmem a = Memory.byteAt s.fmem a := by
  rw [byteAt_writeFrame, if_neg (by omega)]

end

/-! ### A step that changes the frame (R186) -/

theorem SameFrame.of_eq {s t : State} (hflen : t.flen = s.flen) (hfmem : t.fmem = s.fmem) : SameFrame s t :=
  ⟨hflen, fun a _ => congrArg (Memory.byteAt · a) hfmem⟩

/-- A command keeps the frame, or is an assembly that succeeds: an assembly that fails writes STATUS only (R186, R203). -/
theorem exec_sameFrame_or {i : Instr} {s t : State} (h : exec i s = .next t) :
    SameFrame s t ∨ ((i = .asmIp ∨ i = .asmTcp) ∧ t.status.done = true) := by
  by_cases hi : i = .asmIp ∨ i = .asmTcp
  · obtain ⟨c, -, rfl⟩ | ⟨-, rfl⟩ := exec_next_cases h
    · exact .inl (.of_eq rfl rfl)
    · exact .inr ⟨hi, rfl⟩
  · obtain ⟨-, -, -, -, -, hframe⟩ := commandsWriteOnlyTheirResults i s t h
    obtain ⟨hflen, hfmem⟩ := hframe (not_or.1 hi)
    exact .inl ⟨hflen, fun a _ => hfmem a⟩

/-- The engine's command step keeps the frame, or LCMD is an assembly that succeeds: ILLEGAL writes STATUS only. -/
theorem engineStep_sameFrame_or {s t : State} (h : engineStep s = .next t) :
    SameFrame s t ∨ ((decode s.lcmd = .ok .asmIp ∨ decode s.lcmd = .ok .asmTcp) ∧ t.status.done = true) := by
  obtain ⟨i, hd, he⟩ | ⟨-, rfl⟩ := engineStep_cases s t h
  · obtain hsame | ⟨hi, hdone⟩ := exec_sameFrame_or he
    · exact .inl hsame
    · exact .inr ⟨by obtain rfl | rfl := hi <;> simp [hd], hdone⟩
  · exact .inl (.of_eq rfl rfl)

/-- FLEN is read-only to the host (R36, R74). -/
theorem writeReg_flen (r : Reg) (v : Word) (s : State) : (writeReg r v s).flen = s.flen := by
  cases r <;> rfl

/-- No host access reaches FLEN or FMEM (R36, R74). -/
theorem busAccess_sameFrame (a : Access) (s : State) : SameFrame s (busAccess a s) := by
  cases a with
  | read size off =>
    obtain ⟨-, e⟩ | ⟨-, e⟩ := busAccess_read_cases size off s <;> rw [e] <;> exact .of_eq rfl rfl
  | write size off v =>
    obtain ⟨-, e⟩ | ⟨-, -, -, e⟩ | ⟨-, -, e⟩ := busAccess_write_cases size off v s <;> rw [e]
    · exact .of_eq rfl rfl
    · exact .of_eq rfl rfl
    · obtain ⟨r, -, -, e'⟩ | ⟨-, -, e'⟩ | e' := busWrite_cases size off.toNat v s <;> rw [e']
      · obtain ⟨-, hfmem, -⟩ := writeReg_frame r v s
        exact .of_eq (writeReg_flen r v s) hfmem
      · exact .of_eq rfl rfl
      · exact .of_eq rfl rfl

/-- Of the host's events only the assertion of reset moves the frame (R230). -/
theorem hostEvent_sameFrame_or (e : HostEvent) (rest : List HostEvent) (n : Nat) (s : State) :
    SameFrame s (hostEvent e rest { s with latency := n }) ∨ e = .assertReset := by
  cases e with
  | access a => exact .inl (busAccess_sameFrame a _)
  | poll => exact .inl (busAccess_sameFrame statusRead _)
  | assertReset => exact .inr rfl
  | releaseReset => exact .inl (.of_eq rfl rfl)

/-- A state held at its reset values has no frame, and a step held in reset makes none (R230). -/
theorem heldTurn_sameFrame {s : State} (h : s = inReset s) : SameFrame s (heldTurn s) := by
  have hflen : s.flen = 0 := congrArg State.flen h
  have hfmem : s.fmem = [] := congrArg State.fmem h
  obtain ⟨rest, -, e⟩ | ⟨-, u, -, e⟩ := heldTurn_cases s <;> rw [e] <;> exact .of_eq hflen.symm hfmem.symm

/-- A command in flight that is not due has LATENCY left. -/
theorem latency_pos_of_not_due {s : State} (he : engineTurn s = false) (hb : s.status.busy = true) :
    0 < s.latency :=
  Nat.pos_of_ne_zero fun h0 => Bool.eq_false_iff.1 he ((engineTurn_iff s).2 ⟨hb, .inl h0⟩)

/-- Settles O15, by whose turn the step is: only the engine's assembly and the host's assertion of reset are left. -/
theorem frameChangesOnlyByAssembleOrReset : Obligations.FrameChangesOnlyByAssembleOrReset := by
  intro s t hi h hne
  obtain ⟨-, ⟨hr, rfl⟩ | ⟨-, he, hs⟩ | ⟨-, he, e, rest, hh, rfl⟩ | ⟨-, -, -, rfl⟩⟩ := step_cases s t h
  · exact absurd (heldTurn_sameFrame (hi.held hr)) hne
  · obtain ⟨hb, hdue⟩ := (engineTurn_iff s).1 he
    obtain ⟨hasm, hdone⟩ := (engineStep_sameFrame_or hs).resolve_left hne
    exact .inl ⟨hb, hdue, hasm, hdone⟩
  · obtain rfl := (hostEvent_sameFrame_or e rest _ s).resolve_left hne
    exact .inr ⟨latency_pos_of_not_due he, ⟨rest, hh⟩, rfl⟩
  · exact absurd (.of_eq rfl rfl) hne

/-! ### The assembled frames (R181, R182, R184) -/

/-- Settles O41: the headers are the 20 bytes of IPH. -/
theorem asmIpConcatenates : Obligations.AsmIpConcatenates := by
  intro s hp
  have hl : s.iph.toList.length = 20 := s.iph.length_toList
  refine ⟨_, exec_of_commandError_none ((commandError_asm (.inl rfl)).2 hp), ?_, fun i h => ?_, fun i h => ?_,
    fun a h => ?_, rfl, rfl⟩
  · exact (writeFrame_flen_toNat (by omega) hp).trans (by rw [hl])
  · exact (byteAt_writeFrame_header (by omega)).trans (Vector.getElem?_toList ..)
  · exact hl ▸ byteAt_writeFrame_payload h
  · exact byteAt_writeFrame_beyond (by omega)

/-- Settles O42: the headers are the 20 bytes of IPH and then the 20 bytes of TCPH. -/
theorem asmTcpConcatenates : Obligations.AsmTcpConcatenates := by
  intro s hp
  have hiph : s.iph.toList.length = 20 := s.iph.length_toList
  have hl : (s.iph.toList ++ s.tcph.toList).length = 40 := by simp
  refine ⟨_, exec_of_commandError_none ((commandError_asm (.inr rfl)).2 hp), ?_, fun i h => ?_, fun i h => ?_,
    fun i h => ?_, fun a h => ?_, rfl, rfl⟩
  · exact (writeFrame_flen_toNat (by omega) hp).trans (by rw [hl])
  · calc _ = (s.iph.toList ++ s.tcph.toList)[i]? := byteAt_writeFrame_header (by omega)
      _ = s.iph.toList[i]? := List.getElem?_append_left (by omega)
      _ = s.iph[i]? := Vector.getElem?_toList ..
  · calc _ = (s.iph.toList ++ s.tcph.toList)[20 + i]? := byteAt_writeFrame_header (by omega)
      _ = s.tcph.toList[i]? := by rw [List.getElem?_append_right (by omega), hiph, Nat.add_sub_cancel_left]
      _ = s.tcph[i]? := Vector.getElem?_toList ..
  · exact hl ▸ byteAt_writeFrame_payload h
  · exact byteAt_writeFrame_beyond (by omega)

/-- What both assemblies have in common: the frame begins with IPH, and FLEN counts 20 bytes a header (R181, R182). -/
theorem exec_asm_begins_with_iph (tf : Bool) {s : State} (hp : s.plen.toNat ≤ 65536) :
    ∃ t, exec (if tf then .asmTcp else .asmIp) s = .next t ∧ t.flen.toNat = 20 + 20 * tf.toNat + s.plen.toNat ∧
      ∀ i, i < 20 → Memory.byteAt t.fmem i = s.iph[i]? := by
  cases tf with
  | false =>
    obtain ⟨t, h, hflen, hiph, -⟩ := asmIpConcatenates s hp
    exact ⟨t, h, hflen, hiph⟩
  | true =>
    obtain ⟨t, h, hflen, hiph, -⟩ := asmTcpConcatenates s hp
    exact ⟨t, h, hflen, hiph⟩

/-- BUILD_IP that passes its checks in computed-length mode has a total length that fits 16 bits (R202). -/
theorem computedLength_le_of_buildIp {tf : Bool} {s : State} (hm : s.ctrl.ipLenMode = true)
    (h : commandError (.buildIp tf) s = none) : 20 + 20 * tf.toNat + s.plen.toNat ≤ 0xFFFF := by
  by_contra hlen
  rw [commandError, if_neg (by simp [hm])] at h
  split at h
  · contradiction
  · rw [if_pos (by omega)] at h
    contradiction

/-- Settles O43: the header BUILD_IP packed opens the frame, and its total length counts what FLEN counts. -/
theorem computedTotalLengthIsFlen : Obligations.ComputedTotalLengthIsFlen := by
  intro tf s t u v hm h hs ht hiph hplen hv
  obtain ⟨hok, -⟩ := exec_of_done_rises h hs ht
  have hlen := computedLength_le_of_buildIp hm hok
  obtain ⟨t', h', -, -, htl, -⟩ := buildIpPacksHeader tf s fun _ => hlen
  obtain rfl : t' = t := Host.Outcome.next.inj (h'.symm.trans h)
  obtain ⟨v', hv', hflen, hframe⟩ := exec_asm_begins_with_iph tf (s := u) (by rw [hplen]; omega)
  obtain rfl : v' = v := Host.Outcome.next.inj (hv'.symm.trans hv)
  refine ⟨t'.iph[2], t'.iph[3], ?_, ?_, ?_⟩
  · rw [hframe 2 (by decide), hiph]; rfl
  · rw [hframe 3 (by decide), hiph]; rfl
  · rw [htl, if_pos hm, hflen, hplen]

end Sys2Proof.Machine

namespace Sys2Proof.Machine

/-! ### A step always answers (R208) -/

/-- The engine's command step answers a next state: the command's, or the one ILLEGAL leaves. -/
theorem engineStep_answers_next (s : State) : ∃ t, engineStep s = .next t := by
  cases hd : decode s.lcmd with
  | ok i => simpa only [engineStep, hd] using exec_answers_next i s
  | error r => exact ⟨raise .illegal s, by rw [engineStep, hd]⟩

/-- A reserved ERRCODE is the only cause of a step without a next state (R200, U6). -/
theorem step_answers_next {s : State} (hc : s.status.errCode.toNat ≤ 3) : ∃ t, step s = .next t := by
  have hcode : ¬ reservedCode s = true := by simpa using hc
  rw [step, turn, if_neg hcode]
  split
  · exact ⟨_, rfl⟩
  · split
    · exact engineStep_answers_next s
    · exact ⟨_, rfl⟩

/-- Settles O6: the invariant excludes the reserved ERRCODEs, so the step answers, and the step keeps the invariant. -/
theorem stepAlwaysAnswersNext : Obligations.StepAlwaysAnswersNext := by
  intro s hi
  obtain ⟨t, h⟩ := step_answers_next hi.status.codeKnown
  exact ⟨t, h, (stepKeepsInv s t hi h).status.codeKnown⟩

/-! ### Which error a command reports (R200 to R203) -/

theorem exec_of_commandError_some {i : Instr} {s : State} {c : CmdError} (h : commandError i s = some c) :
    exec i s = .next (raise c s) := by
  rw [exec_eq, h]; rfl

/-- ILLEGAL is the error of a word that is no command; a command's own checks find RANGE and TOO_LARGE only (R201,
R202). -/
theorem commandError_range_or_tooLarge {i : Instr} {s : State} {c : CmdError} (h : commandError i s = some c) :
    c = .range ∨ c = .tooLarge := by
  cases c with
  | range => exact .inl rfl
  | tooLarge => exact .inr rfl
  | illegal =>
    cases i with
    | nop | accClear | accFinal => cases h
    | accAdd | csum | buildIp | buildPseudo | buildTcp | asmIp | asmTcp =>
      rw [commandError] at h
      split_ifs at h <;> cases h

/-- Settles O30: the error the checks find is the one raised, and a command whose checks pass finishes. -/
theorem commandReportsItsFirstError : Obligations.CommandReportsItsFirstError := by
  intro i s
  refine ⟨exec_of_commandError_some, exec_of_commandError_some, fun h => ?_, fun h => ?_⟩
  · simpa using commandError_range_or_tooLarge h
  · exact ⟨_, exec_of_commandError_none h, by simp [Status.finished]⟩

/-- A command step that sets ERR has raised an error: ILLEGAL for a word that is no command, else the first error of
the command LCMD decodes to (R203, R205). -/
theorem engineStep_of_err_rises {s t : State} (h : engineStep s = .next t) (hs : s.status.err = false)
    (ht : t.status.err = true) :
    ∃ c, t = raise c s ∧ ((c = .illegal ∧ ∀ i, decode s.lcmd ≠ .ok i) ∨
      ∃ i, decode s.lcmd = .ok i ∧ commandError i s = some c) := by
  obtain ⟨i, hd, he⟩ | ⟨⟨r, hd⟩, rfl⟩ := engineStep_cases s t h
  · obtain ⟨c, hc, rfl⟩ | ⟨-, rfl⟩ := exec_next_cases he
    · exact ⟨c, rfl, .inr ⟨i, hd, hc⟩⟩
    · simp [hs] at ht
  · exact ⟨.illegal, rfl, .inl ⟨rfl, by simp [hd]⟩⟩

/-- Settles O31: the step raised an error, which writes STATUS only and records that error's ERRCODE. -/
theorem failedCommandIsPrecise : Obligations.FailedCommandIsPrecise := by
  intro s t h hs ht
  obtain ⟨c, rfl, hcause⟩ := engineStep_of_err_rises h hs ht
  refine ⟨rfl, rfl, fun _ => ⟨rfl, rfl⟩, c.code, rfl, ?_⟩
  obtain ⟨rfl, hd⟩ | ⟨i, hd, hc⟩ := hcause
  · exact .inl ⟨rfl, hd⟩
  · obtain rfl | rfl := commandError_range_or_tooLarge hc
    · exact .inr ⟨i, hd, .inl ⟨rfl, hc⟩⟩
    · exact .inr ⟨i, hd, .inr ⟨rfl, hc⟩⟩

end Sys2Proof.Machine

namespace Sys2Proof.Machine

/-! ### The engine held in reset (R230) -/

/-- The engine held in reset is as R40 says, whatever its host's side was. -/
theorem inReset_atReset (s : State) : AtReset (inReset s) :=
  resetLeavesZeroRegisters.1

/-- A step held in reset leaves the engine at its reset values, and so does the one that releases it. -/
theorem heldTurn_atReset (s : State) : AtReset (heldTurn s) := by
  obtain ⟨rest, -, e⟩ | ⟨-, u, -, e⟩ := heldTurn_cases s <;> rw [e]
  · exact inReset_atReset s
  · exact inReset_atReset u

/-- A step held in reset takes the host's next event away. -/
theorem heldTurn_host (s : State) : (heldTurn s).host = s.host.tail := by
  obtain ⟨rest, hh, e⟩ | ⟨-, u, hu, e⟩ := heldTurn_cases s <;> rw [e]
  · rw [hh, List.tail_cons]
  · exact hu

/-- Only its release ends a reset. -/
theorem heldTurn_released_iff (s : State) :
    (heldTurn s).resetAsserted = false ↔ ∃ rest, s.host = .releaseReset :: rest := by
  obtain ⟨rest, hh, e⟩ | ⟨hne, u, -, e⟩ := heldTurn_cases s <;> rw [e]
  · exact iff_of_true rfl ⟨rest, hh⟩
  · exact iff_of_false (by simp) (not_exists.2 hne)

/-- With reset asserted a step is one held in reset (R230). -/
theorem step_of_resetAsserted {s : State} (hc : s.status.errCode.toNat ≤ 3) (hr : s.resetAsserted = true) :
    step s = .next (heldTurn s) := by
  have hcode : ¬ reservedCode s = true := by simpa using hc
  rw [step, turn, if_neg hcode, if_pos hr]

/-- Zero bytes make a zero word in the lanes (R72). -/
theorem laneWord_eq_zero {bs : List Byte} (h : ∀ b ∈ bs, b = 0) : laneWord bs = 0 := by
  rw [List.eq_replicate_of_mem h]
  induction bs.length with
  | zero => rfl
  | succ n ih => exact ih

/-- Four bytes of a zero header make a zero word. -/
theorem laneWord_header_eq_zero {n : Nat} {hdr : Vector Byte n} (h : ∀ b ∈ hdr.toList, b = 0) (k : Nat) :
    laneWord ((hdr.toList.drop k).take 4) = 0 :=
  laneWord_eq_zero fun b hb => h b (List.mem_of_mem_drop (List.mem_of_mem_take hb))

theorem Reg.mem_all (r : Reg) : r ∈ Reg.all := by
  cases r <;> decide

theorem AtReset.readReg_eq_zero {s : State} (h : AtReset s) (r : Reg) : readReg r s = 0 := by
  obtain ⟨hregs, -⟩ := h
  rw [registers_eq] at hregs
  exact BitVec.eq_of_toNat_eq (hregs _ (List.mem_map_of_mem r.mem_all))

theorem AtReset.idle {s : State} (h : AtReset s) : s.status.busy = false := by
  obtain ⟨-, -, -, hb⟩ := h
  exact hb

/-- A header window over zero bytes shows 0 (R74). -/
theorem AtReset.windowAt_getD_eq_zero {s : State} (h : AtReset s) (o : Nat) : (windowAt o s).getD 0 = 0 := by
  obtain ⟨-, hheaders, -⟩ := h
  simp only [List.mem_append] at hheaders
  unfold windowAt
  split_ifs
  · rw [Option.getD_some, laneWord_header_eq_zero fun b hb => hheaders b (.inr hb)]
  · rw [Option.getD_some, laneWord_header_eq_zero fun b hb => hheaders b (.inl (.inl hb))]
  · rw [Option.getD_some, laneWord_header_eq_zero fun b hb => hheaders b (.inl (.inr hb))]
  · exact Option.getD_none

/-- At reset every place of the register region reads 0: a register, a header window or a reserved word (R40, R74). -/
theorem AtReset.busRead_eq_zero {s : State} (h : AtReset s) (size : AccessSize) {o : Nat} (ho : o < 0x200) :
    busRead size o s = (0, 0) := by
  have hb := h.idle
  cases hr : regAt o with
  | some r =>
    obtain rfl := offset_of_regAt o r hr
    rw [busRead_reg size (.inl hb), h.readReg_eq_zero]
  | none => rw [busRead_window size hb ho hr, h.windowAt_getD_eq_zero]

/-- An aligned 4-byte read of the register region while reset is asserted returns 0. -/
theorem heldTurn_read_rdata {s : State} {o : Nat} {rest : List HostEvent} (ha : o % 4 = 0) (ho : o < 0x200)
    (hh : s.host = .access (.read .word (BitVec.ofNat 18 o)) :: rest) : (heldTurn s).rdata = 0 := by
  have hreset : AtReset { inReset s with host := rest } := inReset_atReset s
  rw [heldTurn_access s _ rest hh, inReset_rdata, busAccess_read_word_rdata _ ho ha, hreset.busRead_eq_zero .word ho]

/-- Settles O3: the step is one held in reset, whose effect on the registers, the host's events, the reset input and the
host's data is said one by one above. -/
theorem resetHoldsRegisters : Obligations.ResetHoldsRegisters := fun s hc hr =>
  ⟨heldTurn s, step_of_resetAsserted hc hr, heldTurn_atReset s, heldTurn_host s, heldTurn_released_iff s,
    fun _ _ ha ho hh => heldTurn_read_rdata ha ho hh⟩

/-- Settles O2: the assertion is the event of a step held in reset or of the host's turn, and either ends in reset. -/
theorem resetInputAbandonsCommand : Obligations.ResetInputAbandonsCommand := by
  intro s rest hc hh hl
  cases hr : s.resetAsserted with
  | true =>
    have hrest : (heldTurn s).host = rest := by rw [heldTurn_host, hh, List.tail_cons]
    have hheld : (heldTurn s).resetAsserted = true := by
      rw [← Bool.not_eq_false, heldTurn_released_iff, hh]
      simp
    exact ⟨heldTurn s, step_of_resetAsserted hc hr, heldTurn_atReset s, hheld, hrest⟩
  | false => exact ⟨_, step_of_host_cons hc hr hh (hl hr), inReset_atReset _, rfl, rfl⟩

/-! ### A command in flight comes to its end (R241) -/

/-- No command's results lie in the reset input's level. -/
@[simp] theorem writeResults_resetAsserted (i : Instr) (s : State) :
    (writeResults i s).resetAsserted = s.resetAsserted := by
  cases i <;> rfl

/-- The engine's command step completes the command, in success or in an error, and reset stays as it is (R33). -/
theorem engineStep_completes {s t : State} (h : engineStep s = .next t) :
    t.status.busy = false ∧ t.resetAsserted = s.resetAsserted ∧ (t.status.done = true ∨ t.status.err = true) := by
  obtain ⟨i, -, he⟩ | ⟨-, rfl⟩ := engineStep_cases s t h
  · obtain ⟨c, -, rfl⟩ | ⟨-, rfl⟩ := exec_next_cases he <;> simp
  · simp

/-- While a command is in flight no host access ends it or moves its LATENCY: a write of STATUS clears sticky bits only,
and any other write is dropped (R235, R236). -/
theorem busAccess_keeps_flight (a : Access) {s : State} (hb : s.status.busy = true) :
    (busAccess a s).status.busy = true ∧ (busAccess a s).latency = s.latency := by
  cases a with
  | read size off => obtain ⟨-, e⟩ | ⟨-, e⟩ := busAccess_read_cases size off s <;> simp [e, hb]
  | write size off v =>
    obtain ⟨-, e⟩ | ⟨-, -, -, e⟩ | ⟨-, hplace, e⟩ := busAccess_write_cases size off v s
    · simp [e, hb]
    · simp [e, hb]
    · have ho : off.toNat = 4 := by simpa [hb] using hplace
      have hstatus : busWrite size 4 v s = writeReg .status v s := rfl
      rw [e, ho, hstatus]
      exact ⟨hb, rfl⟩

/-- While a command is in flight a host event is the assertion of reset, or keeps the command in flight with its LATENCY
and brings the host no new event. -/
theorem hostEvent_keeps_flight_or (e : HostEvent) (rest : List HostEvent) {s : State} (hb : s.status.busy = true) :
    e = .assertReset ∨ ((hostEvent e rest s).status.busy = true ∧ (hostEvent e rest s).latency = s.latency ∧
      (hostEvent e rest s).host ⊆ e :: rest) := by
  cases e with
  | access a =>
    obtain ⟨hbusy, hlat⟩ := busAccess_keeps_flight a (s := { s with host := rest }) hb
    exact .inr ⟨hbusy, hlat, by simp [hostEvent]⟩
  | poll =>
    obtain ⟨hbusy, hlat⟩ := busAccess_keeps_flight statusRead (s := { s with host := .poll :: rest }) hb
    exact .inr (by simpa [hostEvent, hb] using ⟨hbusy, hlat⟩)
  | assertReset => exact .inl rfl
  | releaseReset => exact .inr ⟨hb, rfl, List.subset_cons_self ..⟩

/-- How a command in flight can have ended in `t`, with `events` the host's: it completed, or reset abandoned it. -/
def Ended (events : List HostEvent) (t : State) : Prop :=
  t.status.busy = false ∧
    ((t.resetAsserted = false ∧ (t.status.done = true ∨ t.status.err = true)) ∨
      (t.resetAsserted = true ∧ HostEvent.assertReset ∈ events))

theorem Ended.mono {events more : List HostEvent} {t : State} (h : Ended events t) (hsub : events ⊆ more) :
    Ended more t :=
  h.imp_right (Or.imp_right (And.imp_right fun hmem => hsub hmem))

/-- With a command in flight a step ends it, or leaves it in flight with one less of its LATENCY. -/
theorem step_of_busy {s : State} (hi : s.Inv) (hb : s.status.busy = true) :
    ∃ t, step s = .next t ∧
      (Ended s.host t ∨ (t.status.busy = true ∧ t.latency + 1 = s.latency ∧ t.host ⊆ s.host)) := by
  have hr : s.resetAsserted = false := hi.released_of_busy hb
  obtain ⟨t, h⟩ := step_answers_next hi.status.codeKnown
  refine ⟨t, h, ?_⟩
  obtain ⟨-, ⟨hr', -⟩ | ⟨-, -, hs⟩ | ⟨-, he, e, rest, hh, rfl⟩ | ⟨-, hb', -⟩⟩ := step_cases s t h
  · simp [hr] at hr'
  · obtain ⟨hbusy, hreset, hresult⟩ := engineStep_completes hs
    exact .inl ⟨hbusy, .inl ⟨hreset.trans hr, hresult⟩⟩
  · have hpos : 0 < s.latency := latency_pos_of_not_due he hb
    obtain rfl | ⟨hbusy, hlat, hsub⟩ :=
      hostEvent_keeps_flight_or e rest (s := { s with latency := s.latency - 1 }) hb
    · exact .inl ⟨rfl, .inr ⟨rfl, by simp [hh]⟩⟩
    · exact .inr ⟨hbusy, by rw [hlat]; exact Nat.sub_add_cancel hpos, hh ▸ hsub⟩
  · simp [hb] at hb'

/-- A command in flight ends within its LATENCY and one step: each step that does not end it takes one from its
LATENCY. -/
theorem run_ends_command {s : State} (hi : s.Inv) (hb : s.status.busy = true) :
    ∃ n t, n ≤ s.latency + 1 ∧ Host.Core.run core n s = .next t ∧ Ended s.host t := by
  induction hl : s.latency generalizing s with
  | zero =>
    obtain ⟨t, h, hend | ⟨-, hlat, -⟩⟩ := step_of_busy hi hb
    · exact ⟨1, t, le_rfl, run_succ 0 s t h, hend⟩
    · omega
  | succ m ih =>
    obtain ⟨u, h, hend | ⟨hbusy, hlat, hsub⟩⟩ := step_of_busy hi hb
    · exact ⟨1, u, by omega, run_succ 0 s u h, hend⟩
    · obtain ⟨n, t, hn, hrun, hend⟩ := ih (stepKeepsInv s u hi h) hbusy (by omega)
      exact ⟨n + 1, t, by omega, (run_succ n s u h).trans hrun, hend.mono hsub⟩

/-- Settles O13: the command ends within its LATENCY and one step. -/
theorem issuedCommandCompletes : Obligations.IssuedCommandCompletes := fun _ hi hb =>
  run_ends_command hi hb

/-! ### A write while BUSY (R236) -/

/-- Settles O46: the access is a bus error or not by R77's three causes, and what is no bus error is dropped. -/
theorem writeWhileBusyIsDropped : Obligations.WriteWhileBusyIsDropped := by
  intro size off v s hb ho
  refine ⟨fun ⟨hgap, hsize, halign⟩ => ?_, fun hcause => ?_⟩
  · have hok : ¬ busError size off.toNat = true := by
      rw [busError_iff]
      tauto
    obtain ⟨he, -⟩ | ⟨-, -, -, e⟩ | ⟨-, hplace, -⟩ := busAccess_write_cases size off v s
    · exact absurd he hok
    · exact e
    · have h4 : off.toNat = 4 := by simpa [hb] using hplace
      exact absurd (BitVec.eq_of_toNat_eq h4) ho
  · have he := (busError_iff size off.toNat).2 (hcause.imp_right (Or.imp_right And.right))
    exact (busAccess_of_busError v s he).2

end Sys2Proof.Machine
